-- ==== Sys2Proof/Word.lean ====
section
/-! DEFINITION. The word types of the block: a byte of a packet or payload, and the count.
Bit 0 is the least significant bit (00_scope.md R6); every value is unsigned (R8). -/

namespace Sys2Proof

/-- A byte: 8 bits, an unsigned value 0 to 255 (00_scope.md R7). -/
abbrev Byte := BitVec 8

/-- The count of format CNT: `CNT_W` = 16 bits, unsigned (00_scope.md R5, R8). -/
abbrev Count := BitVec 16

end Sys2Proof
end

