-- ==== Sys2Proof/Syntax.lean ====
section
/-! DEFINITION. The three operations with their operands, and the form in which a transaction is
presented on the ports of a unit. -/

namespace Sys2Proof

/-- The three units (00_scope.md R2). The unit used selects the operation; there is no opcode
(30_encoding.md R45). -/
inductive BlockUnit where
  | addressRouter
  | commandSerializer
  | countDeserializer
  deriving DecidableEq, Repr

/-- A payload as it stands on the ports of CD: a length and `PMAX` byte lanes (10_state.md R20).
The first two lanes have names of their own because `PMAX ≥ 2` (00_scope.md R5): "only bytes 0 and 1
are needed and both lanes exist" (42_count_deserializer.md R74). A lane at or above `len` carries any
value (93_implementation_defined.md U5). -/
structure Payload where
  /-- `cd_len`. -/
  len : Nat
  /-- `cd_byte[0]`. -/
  lane0 : Byte
  /-- `cd_byte[1]`. -/
  lane1 : Byte
  /-- `cd_byte[2]` to `cd_byte[PMAX-1]`. -/
  rest : List Byte
  deriving DecidableEq, Repr

/-- The complete list of operations (30_encoding.md R53), operands in call order (R59), bound by name (R60). -/
inductive Instr where
  /-- 40_address_router.md R61. -/
  | buildAddress (deviceClass subIndex : Nat)
  /-- 41_command_serializer.md R66. -/
  | encodeCommand (enabled buttonA buttonB : Bool) (speed : Nat)
  /-- 42_count_deserializer.md R73. -/
  | decodeCount (payload : Payload)
  deriving DecidableEq, Repr

/-- The unit an operation belongs to (30_encoding.md R53). -/
def Instr.unit : Instr → BlockUnit
  | .buildAddress _ _ => .addressRouter
  | .encodeCommand _ _ _ _ => .commandSerializer
  | .decodeCount _ => .countDeserializer

/-- What the caller puts on one unit's input ports for one transaction: the levels, as unsigned
numbers, in the order of the port tables 10_state.md R18, R19, R20. Log entry 8. -/
structure Presentation where
  unit : BlockUnit
  levels : List Nat
  deriving DecidableEq, Repr

/-- The input ports (10_state.md R18, R19, R20). -/
inductive InPort where
  | arClass | arIndex
  | csEnabled | csButtonA | csButtonB | csSpeed
  | cdLen | cdByte
  deriving DecidableEq, Repr

/-- Why a list of levels is not a presentation on the unit's ports (10_state.md R23). -/
inductive DecodeError where
  /-- The number of levels is not the number of the unit's input ports. -/
  | wrongPortCount (unit : BlockUnit)
  /-- A level is too large for the width of its port. -/
  | levelTooWide (port : InPort)
  deriving DecidableEq, Repr

end Sys2Proof
end

