-- ==== Sys2Proof/Config.lean ====
section
/-! DEFINITION. What the source fixes, what an implementation fixes (the parameters of 00_scope.md R5),
and the one free value of the spec. -/

namespace Sys2Proof

namespace Config

/-- `SHIFT`: the left shift of `deviceClass` in the identifier, fixed by the source (00_scope.md R5). -/
abbrev shift : Nat := 4

/-- `CNT_MIN_LEN`: the least payload length `decodeCount` accepts, fixed by the source (00_scope.md R5). -/
abbrev cntMinLen : Nat := 2

/-- The value on port `cd_count` while `cd_err = 1`, for each level on the ports of CD and each value of
`State.freeCounter`. A free value: nothing constrains it, so neither two short payloads nor two moments
are said to show the same, and no claim reads it (60_exceptions.md R85, 92_eei_decisions.md D11,
93_implementation_defined.md U4). DESIGN CHOICE, safe: log entry 5. -/
opaque freeCount : Payload → Nat → Count

end Config

/-- The implementation parameters of 00_scope.md R5 that are still open; "each is an argument of the model". -/
structure Params where
  /-- `CW`: width of `ar_class` (D3). -/
  cw : Nat
  /-- `IW`: width of `ar_index` (D4). -/
  iw : Nat
  /-- `SW`: width of `cs_speed` (D7). -/
  sw : Nat
  /-- `PMAX`: number of payload byte lanes of CD (D8). -/
  pmax : Nat
  /-- `LW`: width of `cd_len` (D8). -/
  lw : Nat
  deriving DecidableEq, Repr

namespace Params

/-- `AW = max(CW + 4, IW)`: width of `ar_addr` (00_scope.md R5, D5). -/
def aw (p : Params) : Nat := max (p.cw + Config.shift) p.iw

/-- The legal values of the parameter table of 00_scope.md R5. -/
abbrev Legal (p : Params) : Prop :=
  4 ≤ p.cw ∧ 4 ≤ p.iw ∧ 8 ≤ p.sw ∧ 2 ≤ p.pmax ∧ 2 ≤ p.lw ∧ p.pmax < 2 ^ p.lw

/-- The "value taken" column of 00_scope.md R5. Log entry 2. -/
def taken : Params := { cw := 8, iw := 8, sw := 8, pmax := 8, lw := 4 }

end Params

end Sys2Proof
end

