-- ==== Sys2Proof/WellFormed.lean ====
section
/-! DEFINITION. Which operands the ports can carry (`wellFormed`), and which keep the caller contract
(`inContract`). The contract is not checked by the block, save the payload length
(70_reset_and_hazards.md R101). -/

namespace Sys2Proof

/-- The payload fits the ports of CD: `cd_len` has `LW` bits and there are `PMAX` lanes (10_state.md R20). -/
def Payload.wellFormed (p : Params) (pl : Payload) : Bool :=
  decide (pl.len < 2 ^ p.lw) && decide (pl.rest.length + 2 = p.pmax)

/-- The operands fit the widths of their ports (10_state.md R18, R19, R20, R23). -/
def Instr.wellFormed (p : Params) : Instr → Bool
  | .buildAddress deviceClass subIndex => decide (deviceClass < 2 ^ p.cw) && decide (subIndex < 2 ^ p.iw)
  | .encodeCommand _ _ _ speed => decide (speed < 2 ^ p.sw)
  | .decodeCount payload => payload.wellFormed p

/-- The caller contract (70_reset_and_hazards.md R101). -/
def Instr.inContract : Instr → Bool
  | .buildAddress _ subIndex => decide (subIndex ≤ 15)
  | .encodeCommand _ _ _ speed => decide (speed ≤ 255)
  | .decodeCount payload => decide (Config.cntMinLen ≤ payload.len)

end Sys2Proof
end

