-- ==== Sys2Proof/Decode.lean ====
section
/-! DEFINITION. The decoder and encoder of the port presentation (every operand at every value the
ports carry), and those of the table word (the picture of format ADDR, CMD or CNT in
spec/opcode_table.json). Both decoders are total and reject by name or with `none`. -/

namespace Sys2Proof

/-! ### Port presentations (10_state.md R18, R19, R20) -/

/-- A 1-bit level: 1 = true (10_state.md R19). -/
def levelOfFlag (b : Bool) : Nat := if b then 1 else 0

/-- `[ar_class, ar_index]`. -/
def decodeArPorts (p : Params) : List Nat → Except DecodeError Instr
  | [deviceClass, subIndex] =>
    if 2 ^ p.cw ≤ deviceClass then .error (.levelTooWide .arClass)
    else if 2 ^ p.iw ≤ subIndex then .error (.levelTooWide .arIndex)
    else .ok (.buildAddress deviceClass subIndex)
  | _ => .error (.wrongPortCount .addressRouter)

/-- `[cs_enabled, cs_button_a, cs_button_b, cs_speed]`: the port order, which is the call order of R59.
A flag level other than 0 or 1 cannot stand on a 1-bit port (93_implementation_defined.md U2). -/
def decodeCsPorts (p : Params) : List Nat → Except DecodeError Instr
  | [enabled, buttonA, buttonB, speed] =>
    if 2 ≤ enabled then .error (.levelTooWide .csEnabled)
    else if 2 ≤ buttonA then .error (.levelTooWide .csButtonA)
    else if 2 ≤ buttonB then .error (.levelTooWide .csButtonB)
    else if 2 ^ p.sw ≤ speed then .error (.levelTooWide .csSpeed)
    else .ok (.encodeCommand (enabled == 1) (buttonA == 1) (buttonB == 1) speed)
  | _ => .error (.wrongPortCount .commandSerializer)

/-- `[cd_len, cd_byte[0], ..., cd_byte[PMAX-1]]`. -/
def decodeCdPorts (p : Params) : List Nat → Except DecodeError Instr
  | len :: lane0 :: lane1 :: rest =>
    if rest.length + 2 ≠ p.pmax then .error (.wrongPortCount .countDeserializer)
    else if 2 ^ p.lw ≤ len then .error (.levelTooWide .cdLen)
    else if (lane0 :: lane1 :: rest).all (fun v => decide (v < 256)) then
      .ok (.decodeCount
        { len := len, lane0 := BitVec.ofNat 8 lane0, lane1 := BitVec.ofNat 8 lane1,
          rest := rest.map (BitVec.ofNat 8) })
    else .error (.levelTooWide .cdByte)
  | _ => .error (.wrongPortCount .countDeserializer)

/-- The operation a presentation selects: by the unit whose ports carry the levels, not by a code
(30_encoding.md R45). -/
def decode (p : Params) (pr : Presentation) : Except DecodeError Instr :=
  match pr.unit with
  | .addressRouter => decodeArPorts p pr.levels
  | .commandSerializer => decodeCsPorts p pr.levels
  | .countDeserializer => decodeCdPorts p pr.levels

/-- The levels an operation puts on its unit's input ports (10_state.md R18, R19, R20). -/
def encode : Instr → Presentation
  | .buildAddress deviceClass subIndex => { unit := .addressRouter, levels := [deviceClass, subIndex] }
  | .encodeCommand enabled buttonA buttonB speed =>
    { unit := .commandSerializer,
      levels := [levelOfFlag enabled, levelOfFlag buttonA, levelOfFlag buttonB, speed] }
  | .decodeCount pl =>
    { unit := .countDeserializer,
      levels := pl.len :: pl.lane0.toNat :: pl.lane1.toNat :: pl.rest.map BitVec.toNat }

/-! ### Table words (30_encoding.md R46, R47, R48; spec/opcode_table.json)

The table's string read as one number, its last character bit 0: for ADDR the identifier, for CMD and
CNT the picture of two bytes, byte 0 in bits 15:8. -/

/-- The bits of the row's string at the default widths. -/
def tableBits : BlockUnit → Nat
  | .addressRouter => 12
  | .commandSerializer => 16
  | .countDeserializer => 16

/-- The operation whose table word in the given unit's format is `w`. `none` where the format has no
such word: too many bits, or a fixed bit of CMD set. CNT words carry no length; "it is given beside
it" (30_encoding.md R58): the two bytes are the whole payload and the other lanes are 0 (log entry 10). -/
def decodeWord (p : Params) (u : BlockUnit) (w : Nat) : Option Instr :=
  match u with
  | .addressRouter =>
    if w < 2 ^ p.aw then some (.buildAddress (w >>> Config.shift) (w % 16)) else none
  | .commandSerializer =>
    if w < 65536 ∧ w / 8 % 32 = 0 then
      some (.encodeCommand (w.testBit 2) (w.testBit 0) (w.testBit 1) (w / 256))
    else none
  | .countDeserializer =>
    if w < 65536 then
      some (.decodeCount
        { len := 2, lane0 := BitVec.ofNat 8 (w / 256), lane1 := BitVec.ofNat 8 w,
          rest := List.replicate (p.pmax - 2) 0 })
    else none

/-- The table word of an in-contract operation: `cccccccciiii`, `ssssssss00000eba` or
`llllllllhhhhhhhh` (30_encoding.md R46, R47, R48). -/
def encodeWord : Instr → Nat
  | .buildAddress deviceClass subIndex => deviceClass * 16 + subIndex
  | .encodeCommand enabled buttonA buttonB speed =>
    speed * 256 + (levelOfFlag enabled * 4 + levelOfFlag buttonB * 2 + levelOfFlag buttonA)
  | .decodeCount pl => pl.lane0.toNat * 256 + pl.lane1.toNat

/-- The unit a bare table word is read for. The spec has no opcode, so a word alone does not select:
DESIGN CHOICE, the format with the most fixed bits that admits the word (log entry 9). No step of the
machine uses this; a presentation names its unit. -/
def unitOfTableWord (nbits w : Nat) : Option BlockUnit :=
  if nbits = 12 then some .addressRouter
  else if nbits = 16 then
    if w / 8 % 32 = 0 then some .commandSerializer
    else if w < 4096 then some .addressRouter
    else some .countDeserializer
  else none

/-- `decodeTableWord` at given parameters. -/
def decodeTableWordAt (p : Params) (nbits w : Nat) : Option Instr :=
  match unitOfTableWord nbits w with
  | some u => decodeWord p u w
  | none => none

/-- The operation the decoder reads from a table word, at the parameter values of 00_scope.md R5. -/
def decodeTableWord (nbits w : Nat) : Option Instr :=
  decodeTableWordAt Params.taken nbits w

end Sys2Proof
end

