-- ==== Sys2Proof/Machine/State.lean ====
section
/-! DEFINITION. State as plain data. The block has no state ("the unit type", 10_state.md R13); State
holds its interface: the levels held on the input ports, the parameters, and what the caller holds
(transactions to come, results received). The output ports are functions of the input levels
(`Machine/Ops.lean`) and are not stored. -/

namespace Sys2Proof.Machine

/-- The result of `encodeCommand`: exactly 2 bytes at offsets 0 and 1 (20_memory.md R27). -/
structure Packet where
  byte0 : Byte
  byte1 : Byte
  deriving DecidableEq, Repr

/-- The one error kind; it carries no data (60_exceptions.md R79, R80, R81). -/
inductive BlockError where
  /-- Raised by `decodeCount` on a payload of fewer than 2 bytes. A result, not a stop of the machine. -/
  | malformedPacket
  deriving DecidableEq, Repr

/-- The result of one transaction (92_eei_decisions.md D19). A failed `decodeCount` gives the error
"and no count" (60_exceptions.md R85). -/
inductive Result where
  | identifier (address : Nat)
  | packet (packet : Packet)
  | count (count : Count)
  | error (error : BlockError)
  deriving DecidableEq, Repr

/-- The input ports of AR (10_state.md R18). -/
structure ArPorts where
  deviceClass : Nat
  subIndex : Nat
  deriving DecidableEq, Repr

/-- The input ports of CS (10_state.md R19). -/
structure CsPorts where
  enabled : Bool
  buttonA : Bool
  buttonB : Bool
  speed : Nat
  deriving DecidableEq, Repr

/-- The block has no fault and no stuck state: "every transaction of every unit completes"
(60_exceptions.md R85). So this type has no constructor. -/
inductive Fault where
  deriving DecidableEq, Repr

/-- Why a step gives no next state. -/
inductive Refusal where
  /-- Raised by `exec`'s arm of an operation without a meaning. Safe. No arm raises it. -/
  | notModelled (mnemonic : String)
  /-- Raised by `step` when the caller's next entry is not levels on a unit's ports: "outside the spec"
  (10_state.md R23). Safe. No operation raises it. -/
  | notPresentable (why : DecodeError)
  deriving DecidableEq, Repr

/-- The interface of the block, and the caller's side of it. -/
structure State where
  /-- The implementation parameters (00_scope.md R5); no step changes them. -/
  config : Params
  /-- The levels on the input ports of AR (10_state.md R18). -/
  ar : ArPorts
  /-- The levels on the input ports of CS (10_state.md R19). -/
  cs : CsPorts
  /-- The levels on the input ports of CD (10_state.md R20). -/
  cd : Payload
  /-- The caller's transactions yet to be presented (92_eei_decisions.md D22). -/
  pending : List Presentation
  /-- The results of the transactions done, oldest first (92_eei_decisions.md D22). -/
  results : List Result
  /-- The MODEL's own: where (with the levels of CD) `Config.freeCount` is read; every step advances it (log entry 5). -/
  freeCounter : Nat
  deriving DecidableEq, Repr

/-- Reset has nothing to do (70_reset_and_hazards.md R97). The parameters have the values of
00_scope.md R5; the port levels are DESIGN CHOICE zeros (log entry 1); nothing is pending and there is
no result (log entry 3). -/
def State.reset : State where
  config := Params.taken
  ar := { deviceClass := 0, subIndex := 0 }
  cs := { enabled := false, buttonA := false, buttonB := false, speed := 0 }
  cd := { len := 0, lane0 := 0, lane1 := 0, rest := [0, 0, 0, 0, 0, 0] }
  pending := []
  results := []
  freeCounter := 0

end Sys2Proof.Machine
end

