-- ==== Sys2Proof/Machine/Flags.lean ====
section
/-! DEFINITION. The flag byte of a command packet. There are no status flags (10_state.md R16). -/

namespace Sys2Proof.Machine

/-- `b2i` (00_scope.md section 4.1). -/
def b2i (f : Bool) : Nat := if f then 1 else 0

/-- One step of the fold: "shift the accumulator left by 1 bit, then set the new low bit to 1 if the
current flag is true" (41_command_serializer.md R67). -/
def flagStep (acc : Nat) (f : Bool) : Nat := (acc <<< 1) ||| b2i f

/-- The left-to-right fold from a 0-valued accumulator (30_encoding.md R50, 41_command_serializer.md R67). -/
def flagFold (flags : List Bool) : Nat := flags.foldl flagStep 0

/-- Byte 1: the fold over `[enabled, buttonB, buttonA]`, zero-extended to 8 bits (30_encoding.md R50).
The fold's order is by name and is not the call's argument order (R60). -/
def flagByte (enabled buttonA buttonB : Bool) : Byte :=
  BitVec.ofNat 8 (flagFold [enabled, buttonB, buttonA])

end Sys2Proof.Machine
end

