-- ==== Sys2Proof/Machine/Operands.lean ====
section
/-! DEFINITION. Operand assembly (30_encoding.md section 3) and the byte sequences of 00_scope.md
section 4.1. -/

namespace Sys2Proof.Machine

/-- Identifier assembly: OR, nothing masked (30_encoding.md R49; the operator per 90_conflicts.md C1,
log entry 7). -/
def assembleIdentifier (deviceClass subIndex : Nat) : Nat :=
  (deviceClass <<< Config.shift) ||| subIndex

/-- Speed assembly: `speed[7:0]` (30_encoding.md R51; above 255 per D7, log entry 6). -/
def speedByte (speed : Nat) : Byte := BitVec.ofNat 8 speed

/-- Count assembly: zero-extended, little-endian (30_encoding.md R52, 20_memory.md R29). -/
def assembleCount (lo hi : Byte) : Count := lo.setWidth 16 ||| (hi.setWidth 16 <<< 8)

/-- All lanes of CD in order (10_state.md R20). -/
def payloadLanes (pl : Payload) : List Byte := pl.lane0 :: pl.lane1 :: pl.rest

/-- The payload as a byte sequence: lane `i` carries byte `i` when `i < cd_len` (10_state.md R20). -/
def payloadBytes (pl : Payload) : List Byte := (payloadLanes pl).take pl.len

/-- The value of bytes in little-endian order: `sum over k of p[k] * 256^k`. -/
def littleEndian : List Byte → Nat
  | [] => 0
  | b :: bs => b.toNat + 256 * littleEndian bs

/-- `MemRead(a, n)` of a payload (00_scope.md section 4.1). -/
def memRead (p : List Byte) (a n : Nat) : Nat := littleEndian ((p.drop a).take n)

/-- The test harness's inverse of `decodeCount`, no operation of the block (95_test_vectors.md
section 2.4, 42_count_deserializer.md R77). -/
def encodeCountLE (count : Nat) : List Byte := [BitVec.ofNat 8 (count % 256), BitVec.ofNat 8 (count >>> 8)]

/-- `MemWrite(a, 1, v)` of a command packet: offsets 0 and 1 and no others (20_memory.md R27, R34). -/
def Packet.memWrite (k : Packet) (a : Fin 2) (v : Byte) : Packet :=
  match a with
  | 0 => { k with byte0 := v }
  | 1 => { k with byte1 := v }

/-- The packet as a byte sequence (00_scope.md R7). -/
def Packet.bytes (k : Packet) : List Byte := [k.byte0, k.byte1]

/-- The packet of 41_command_serializer.md R66: both bytes are written, so what the packet held before
the first write does not matter. -/
def assemblePacket (enabled buttonA buttonB : Bool) (speed : Nat) : Packet :=
  (Packet.memWrite { byte0 := 0, byte1 := 0 } 0 (speedByte speed)).memWrite 1 (flagByte enabled buttonA buttonB)

/-- The number of an error where one is wanted (60_exceptions.md R80). -/
def BlockError.code : BlockError → Nat
  | .malformedPacket => 1

end Sys2Proof.Machine
end

