-- ==== Sys2Proof/Machine/Ops.lean ====
section
/-! DEFINITION. The named operations over the ports: driving the inputs, reading the outputs,
completing a transaction with a result, and the one error. -/

namespace Sys2Proof.Machine.State

/-! ### Output ports: functions of the input levels "at every moment" (10_state.md R18, R19, R20) -/

/-- Port `ar_addr` (10_state.md R18). -/
def arAddr (s : State) : Nat := assembleIdentifier s.ar.deviceClass s.ar.subIndex

/-- Ports `cs_byte0` and `cs_byte1` together (10_state.md R19). -/
def csPacket (s : State) : Packet := assemblePacket s.cs.enabled s.cs.buttonA s.cs.buttonB s.cs.speed

/-- Port `cs_byte0`. -/
def csByte0 (s : State) : Byte := s.csPacket.byte0

/-- Port `cs_byte1`. -/
def csByte1 (s : State) : Byte := s.csPacket.byte1

/-- Port `cs_len`, the number of bytes of the packet: constant 2 (10_state.md R19, D21). -/
def csLen (s : State) : BitVec 2 := BitVec.ofNat 2 s.csPacket.bytes.length

/-- Port `cd_err`: 1 exactly when `cd_len < 2` (42_count_deserializer.md R74). The lanes are not read. -/
def cdErr (s : State) : Bool := decide (s.cd.len < Config.cntMinLen)

/-- Port `cd_count`: the count, "valid only when `cd_err = 0`" (10_state.md R20); a free value while
`cd_err = 1` (60_exceptions.md R85, log entry 5). -/
def cdCount (s : State) : Count :=
  if s.cdErr then Config.freeCount s.cd s.freeCounter else assembleCount s.cd.lane0 s.cd.lane1

/-- What the output ports of a unit show, read as the result of a transaction: with `cd_err = 1` the
error alone, "and no count" (60_exceptions.md R85). -/
def output (s : State) : BlockUnit → Result
  | .addressRouter => .identifier s.arAddr
  | .commandSerializer => .packet s.csPacket
  | .countDeserializer => if s.cdErr then .error .malformedPacket else .count s.cdCount

/-! ### Driving the input ports; each unit has ports of its own (92_eei_decisions.md D1) -/

/-- The caller puts operands on the ports of AR. -/
def driveAr (s : State) (deviceClass subIndex : Nat) : State :=
  { s with ar := { deviceClass := deviceClass, subIndex := subIndex } }

/-- The caller puts operands on the ports of CS. -/
def driveCs (s : State) (enabled buttonA buttonB : Bool) (speed : Nat) : State :=
  { s with cs := { enabled := enabled, buttonA := buttonA, buttonB := buttonB, speed := speed } }

/-- The caller puts a payload on the ports of CD. -/
def driveCd (s : State) (payload : Payload) : State := { s with cd := payload }

/-! ### Completing a transaction -/

/-- The transaction ends with result `r`, handed to the caller. The block keeps nothing (10_state.md
R21); the free value of `cd_count` is taken anew (log entry 5). -/
def record (s : State) (r : Result) : State :=
  { s with results := s.results ++ [r], freeCounter := s.freeCounter + 1 }

/-- Taking the error: "The error is a result, not a transfer of control" (60_exceptions.md R85). Nothing
is saved, no mode or mask changes, no handler runs; the transaction ends with the error. There is no
return from it and nothing to restore (R88). -/
def raise (s : State) (e : BlockError) : State := s.record (.error e)

/-! ### The caller's side -/

/-- The caller's next transaction, and the state without it. -/
def fetch (s : State) : Option (Presentation × State) :=
  match s.pending with
  | [] => none
  | pr :: rest => some (pr, { s with pending := rest })

/-- The caller puts a transaction in front of those yet to come (log entry 3). -/
def present (s : State) (pr : Presentation) : State := { s with pending := pr :: s.pending }

/-- No transaction is presented: nothing happens (93_implementation_defined.md U6, log entry 4), and the
free value of `cd_count` is taken anew. -/
def idle (s : State) : State := { s with freeCounter := s.freeCounter + 1 }

end Sys2Proof.Machine.State
end

