-- ==== Sys2Proof/Machine/AddressRouter.lean ====
section
/-! DEFINITION. Unit AR: the meaning of `buildAddress` (40_address_router.md). -/

namespace Sys2Proof.Machine

/-- `buildAddress(deviceClass, subIndex)`: 40_address_router.md R61. It cannot fail (R64); a
`subIndex ≥ 16` is not checked (R63). -/
def execBuildAddress (deviceClass subIndex : Nat) (s : State) : Host.Outcome State Fault Refusal :=
  let driven := s.driveAr deviceClass subIndex
  .next (driven.record (.identifier driven.arAddr))

end Sys2Proof.Machine
end

