-- ==== Sys2Proof/Machine/CommandSerializer.lean ====
section
/-! DEFINITION. Unit CS: the meaning of `encodeCommand` (41_command_serializer.md). -/

namespace Sys2Proof.Machine

/-- `encodeCommand(enabled, buttonA, buttonB, speed)`: 41_command_serializer.md R66. It cannot fail
(R69); a speed above 255 is truncated, not refused (R68). -/
def execEncodeCommand (enabled buttonA buttonB : Bool) (speed : Nat) (s : State) :
    Host.Outcome State Fault Refusal :=
  let driven := s.driveCs enabled buttonA buttonB speed
  .next (driven.record (.packet driven.csPacket))

end Sys2Proof.Machine
end

