-- ==== Sys2Proof/Machine/CountDeserializer.lean ====
section
/-! DEFINITION. Unit CD: the meaning of `decodeCount` (42_count_deserializer.md). -/

namespace Sys2Proof.Machine

/-- `decodeCount(payload)`: 42_count_deserializer.md R73. The length is checked before any byte is
read (R74); a short payload raises `MalformedPacket` and gives no count. -/
def execDecodeCount (payload : Payload) (s : State) : Host.Outcome State Fault Refusal :=
  let driven := s.driveCd payload
  if driven.cdErr then .next (driven.raise .malformedPacket)
  else .next (driven.record (.count driven.cdCount))

end Sys2Proof.Machine
end

