-- ==== Sys2Proof/Machine/Dispatch.lean ====
section
/-! DEFINITION. One arm per operation. -/

namespace Sys2Proof.Machine

def exec (i : Instr) (s : State) : Host.Outcome State Fault Refusal :=
  match i with
  | .buildAddress deviceClass subIndex => Sys2Proof.Machine.execBuildAddress deviceClass subIndex s
  | .encodeCommand enabled buttonA buttonB speed => Sys2Proof.Machine.execEncodeCommand enabled buttonA buttonB speed s
  | .decodeCount payload => Sys2Proof.Machine.execDecodeCount payload s

end Sys2Proof.Machine
end

