-- ==== Sys2Proof/Machine/Step.lean ====
section
/-! DEFINITION. One step is one transaction (92_eei_decisions.md D19): the caller's next presentation
is decoded and its operation executed. -/

namespace Sys2Proof.Machine

/-- The caller presents its next transaction. With none to present nothing happens (log entry 4);
what is no presentation on the ports is refused by name (log entry 8). -/
def step (s : State) : Host.Outcome State Fault Refusal :=
  match s.fetch with
  | none => .next s.idle
  | some (pr, s') =>
    match decode s.config pr with
    | .ok i => exec i s'
    | .error e => .refused (.notPresentable e)

/-- The operation of a table word put in front of the caller's transactions, on the ports of its unit.
A word that no format admits leaves a presentation that `step` refuses. Log entries 3 and 9. -/
def State.withFetchWord (s : State) (nbits w : Nat) : State :=
  match decodeTableWordAt s.config nbits w with
  | some i => s.present (encode i)
  | none => s.present { unit := .addressRouter, levels := [] }

end Sys2Proof.Machine
end

