-- ==== Sys2Proof/Safety.lean ====
section
/-! DEFINITION. The terms of the claims: the spec's transaction function in closed form, and the
invariant of a run. -/

namespace Sys2Proof.Machine

/-- `decodeCount` of a byte sequence, as the source states it (42_count_deserializer.md R73, R74). -/
def countOfBytes (p : List Byte) : Result :=
  if p.length < Config.cntMinLen then .error .malformedPacket
  else .count (BitVec.ofNat 16 (memRead p 0 2))

/-- "A transaction maps an `Op` to a result" (92_eei_decisions.md D19), in the closed forms of the
"value" entries of spec/opcode_table.json: no state, no ports. -/
def transaction : Instr → Result
  | .buildAddress deviceClass subIndex => .identifier ((deviceClass * 16) ||| subIndex)
  | .encodeCommand enabled buttonA buttonB speed =>
    .packet { byte0 := BitVec.ofNat 8 (speed % 256),
              byte1 := BitVec.ofNat 8 (4 * b2i enabled + 2 * b2i buttonB + b2i buttonA) }
  | .decodeCount payload => countOfBytes (payloadBytes payload)

/-- The operands of all units fit their ports (10_state.md R18, R19, R20). -/
abbrev State.PortsFit (s : State) : Prop :=
  s.ar.deviceClass < 2 ^ s.config.cw ∧ s.ar.subIndex < 2 ^ s.config.iw ∧
  s.cs.speed < 2 ^ s.config.sw ∧
  s.cd.len < 2 ^ s.config.lw ∧ s.cd.rest.length + 2 = s.config.pmax

/-- A result the block's output ports can carry: an identifier of `AW` bits (10_state.md R18), a packet
whose bits 7:3 of byte 1 are 0 (30_encoding.md R54). -/
abbrev Result.Fits (p : Params) (r : Result) : Prop :=
  match r with
  | .identifier a => a < 2 ^ p.aw
  | .packet k => k.byte1.toNat < 8
  | .count _ => True
  | .error _ => True

/-- The parameters are legal, every port carries a level of its width, and every result handed to the
caller is one the output ports can carry. -/
structure State.Inv (s : State) : Prop where
  legal : s.config.Legal
  ports : s.PortsFit
  results : ∀ r ∈ s.results, r.Fits s.config

end Sys2Proof.Machine
end

