-- ==== Sys2Proof/Certificates/Slice0/Obligations.lean ====
section
/-! DEFINITION. The statements for the provers. Each docstring names the rule of spec/ it formalises;
where a clause rests on a choice of the model, the log entry. -/

open Sys2Proof Sys2Proof.Machine

/-! ### Reset -/

/-- What reset leaves. The parameter values are those the spec takes (00_scope.md R5); that nothing is
pending and no result is held, and the zero port levels, are the MODEL's choice (log entries 1 and 3). -/
def Obligations.ResetTakesSpecParametersAndHoldsNothing : Prop :=
  State.reset.config = { cw := 8, iw := 8, sw := 8, pmax := 8, lw := 4 } ∧
  State.reset.config.Legal ∧ State.reset.config.aw = 12 ∧
  State.reset.pending = [] ∧ State.reset.results = []

/-- The invariant holds at reset. The zero port levels are the MODEL's choice (log entry 1). -/
def Obligations.ResetMeetsInvariant : Prop := State.reset.Inv

/-- 70_reset_and_hazards.md R97, R100: the first transaction after reset behaves as one from any state. -/
def Obligations.FirstTransactionGivesSameResultAsAnyOther : Prop :=
  ∀ (i : Instr) (s : State), ∃ r t u,
    exec i State.reset = .next t ∧ t.results = [r] ∧
    exec i s = .next u ∧ u.results = s.results ++ [r]

/-! ### buildAddress -/

/-- 40_address_router.md R61: the result, its width, no exception, no state; and the frame: nothing but
AR's own ports, the result handed over and the model's free counter changes. That the free counter exists and
advances is the MODEL's choice (log entry 5). For a sub-index of 16 or more the OR rests on the spec's
resolution 90_conflicts.md C1 (log entry 7). -/
def Obligations.BuildAddressReturnsClassShiftedOrIndex : Prop :=
  ∀ (deviceClass subIndex : Nat) (s : State),
    exec (.buildAddress deviceClass subIndex) s =
      .next { s with
        ar := { deviceClass := deviceClass, subIndex := subIndex }
        results := s.results ++ [.identifier ((deviceClass <<< 4) ||| subIndex)]
        freeCounter := s.freeCounter + 1 } ∧
    ∀ p : Params, deviceClass < 2 ^ p.cw → subIndex < 2 ^ p.iw →
      (deviceClass <<< 4) ||| subIndex < 2 ^ p.aw

/-- 40_address_router.md R62: in contract the OR is a sum, for every `deviceClass`, and both operands can
be read back. -/
def Obligations.BuildAddressInContractIsSumAndReadsBack : Prop :=
  ∀ (deviceClass subIndex : Nat) (s : State), subIndex ≤ 15 →
    (deviceClass <<< 4) % 16 = 0 ∧ subIndex >>> 4 = 0 ∧
    ∃ t a, exec (.buildAddress deviceClass subIndex) s = .next t ∧
      t.results = s.results ++ [.identifier a] ∧
      a = deviceClass * 16 + subIndex ∧ a % 16 = subIndex ∧ a >>> 4 = deviceClass

/-- 40_address_router.md R63: out of contract nothing is signalled, the class field is
`deviceClass ||| (subIndex >>> 4)`, it differs from `deviceClass` exactly when `subIndex >>> 4` has a bit
that `deviceClass` lacks, and the identifier is the sum exactly when the two have no common bit and
smaller otherwise. All of it rests on the spec's resolution 90_conflicts.md C1, C4 for OR, which the model
takes as log entry 7 (DEDUCED). -/
def Obligations.BuildAddressOutOfContractCorruptsClassSilently : Prop :=
  ∀ (deviceClass subIndex : Nat) (s : State), 16 ≤ subIndex →
    ∃ t a, exec (.buildAddress deviceClass subIndex) s = .next t ∧
      t.results = s.results ++ [.identifier a] ∧
      a % 16 = subIndex % 16 ∧ a >>> 4 = (deviceClass ||| (subIndex >>> 4)) ∧
      (a >>> 4 ≠ deviceClass ↔
        ∃ k, (subIndex >>> 4).testBit k = true ∧ deviceClass.testBit k = false) ∧
      (a = deviceClass * 16 + subIndex ↔ (deviceClass <<< 4) &&& subIndex = 0) ∧
      ((deviceClass <<< 4) &&& subIndex ≠ 0 → a < deviceClass * 16 + subIndex) ∧
      a % 16 ≠ subIndex

/-- 70_reset_and_hazards.md R102: the identifier of an out-of-contract pair is that of another,
in-contract pair, which the caller did not mean. That this pair is `deviceClass ||| (subIndex >>> 4)` and
`subIndex % 16` rests on OR out of contract: the spec's resolution 90_conflicts.md C1, which the model takes as
log entry 7 (DEDUCED). -/
def Obligations.BuildAddressOutOfContractAliasesAnotherPair : Prop :=
  ∀ (deviceClass subIndex : Nat) (s : State), 16 ≤ subIndex →
    ∃ r t u, exec (.buildAddress deviceClass subIndex) s = .next t ∧
      exec (.buildAddress (deviceClass ||| (subIndex >>> 4)) (subIndex % 16)) s = .next u ∧
      t.results = s.results ++ [r] ∧ u.results = s.results ++ [r] ∧
      (Instr.buildAddress (deviceClass ||| (subIndex >>> 4)) (subIndex % 16)).inContract = true

/-! ### encodeCommand -/

/-- 41_command_serializer.md R66: byte 0 is `speed[7:0]`, byte 1 is the flag byte, `cs_len = 2`, no
exception, no state; and the frame: nothing but CS's own ports, the result handed over and the model's
free counter changes. That the free counter exists and advances is the MODEL's choice (log entry 5). Above
255 byte 0 rests on the spec's decision D7, a DESIGN CHOICE (log entry 6). -/
def Obligations.EncodeCommandReturnsSpeedAndFlagBytes : Prop :=
  ∀ (enabled buttonA buttonB : Bool) (speed : Nat) (s : State),
    ∃ t, exec (.encodeCommand enabled buttonA buttonB speed) s = .next t ∧
      t = { s with
        cs := { enabled := enabled, buttonA := buttonA, buttonB := buttonB, speed := speed }
        results := s.results ++ [.packet
          { byte0 := BitVec.ofNat 8 speed,
            byte1 := BitVec.ofNat 8 (4 * b2i enabled + 2 * b2i buttonB + b2i buttonA) }]
        freeCounter := s.freeCounter + 1 } ∧
      t.csByte0 = BitVec.ofNat 8 speed ∧
      t.csByte1 = BitVec.ofNat 8 (4 * b2i enabled + 2 * b2i buttonB + b2i buttonA) ∧
      t.csLen = 2

/-- 41_command_serializer.md R67: the accumulator after each step of the fold, its bound, and that
byte 1 is the final accumulator zero-extended. -/
def Obligations.FlagFoldRunsEnabledThenButtonBThenButtonA : Prop :=
  ∀ (enabled buttonA buttonB : Bool) (speed : Nat) (s : State),
    flagFold [] = 0 ∧
    flagFold [enabled] = b2i enabled ∧
    flagFold [enabled, buttonB] = 2 * b2i enabled + b2i buttonB ∧
    flagFold [enabled, buttonB, buttonA] = 4 * b2i enabled + 2 * b2i buttonB + b2i buttonA ∧
    flagFold [enabled, buttonB, buttonA] ≤ 7 ∧
    ∃ t k, exec (.encodeCommand enabled buttonA buttonB speed) s = .next t ∧
      t.results = s.results ++ [.packet k] ∧ k.byte1.toNat = flagFold [enabled, buttonB, buttonA]

/-- 41_command_serializer.md R68: byte 0 is the speed for 0 to 255 and `speed mod 256` for every speed
(above 255 the spec's decision D7, a DESIGN CHOICE, log entry 6); the speed has no effect on byte 1 and the flags none on byte 0. -/
def Obligations.SpeedByteIsSpeedAndIndependentOfFlags : Prop :=
  ∀ (enabled buttonA buttonB : Bool) (speed : Nat) (s : State),
    ∃ t k, exec (.encodeCommand enabled buttonA buttonB speed) s = .next t ∧
      t.results = s.results ++ [.packet k] ∧
      k.byte0.toNat = speed % 256 ∧ (speed ≤ 255 → k.byte0.toNat = speed) ∧
      (∀ speed' : Nat, ∃ t' k', exec (.encodeCommand enabled buttonA buttonB speed') s = .next t' ∧
        t'.results = s.results ++ [.packet k'] ∧ k'.byte1 = k.byte1) ∧
      (∀ enabled' buttonA' buttonB' : Bool,
        ∃ t' k', exec (.encodeCommand enabled' buttonA' buttonB' speed) s = .next t' ∧
          t'.results = s.results ++ [.packet k'] ∧ k'.byte0 = k.byte0)

/-- 41_command_serializer.md R69: it never fails and always returns 2 bytes, in and out of contract. -/
def Obligations.EncodeCommandNeverFailsAndReturnsTwoBytes : Prop :=
  ∀ (enabled buttonA buttonB : Bool) (speed : Nat) (s : State),
    ∃ t k, exec (.encodeCommand enabled buttonA buttonB speed) s = .next t ∧
      t.results = s.results ++ [.packet k] ∧ k.bytes.length = 2 ∧
      k.bytes = [t.csByte0, t.csByte1] ∧ t.csLen = 2

/-- 41_command_serializer.md R70: the closed form in contract, bit by bit, and that the four operands can
be read back from the two bytes. -/
def Obligations.EncodeCommandClosedFormIsInjective : Prop :=
  (∀ (enabled buttonA buttonB : Bool) (speed : Nat) (s : State), speed ≤ 255 →
    ∃ t k, exec (.encodeCommand enabled buttonA buttonB speed) s = .next t ∧
      t.results = s.results ++ [.packet k] ∧
      k.byte0.toNat = speed ∧
      k.byte1.toNat = 4 * b2i enabled + 2 * b2i buttonB + b2i buttonA ∧
      k.byte1.getLsbD 2 = enabled ∧ k.byte1.getLsbD 1 = buttonB ∧ k.byte1.getLsbD 0 = buttonA ∧
      ∀ j, 3 ≤ j → j ≤ 7 → k.byte1.getLsbD j = false) ∧
  (∀ (e a b e' a' b' : Bool) (v v' : Nat) (s s' t t' : State) (k : Packet), v ≤ 255 → v' ≤ 255 →
    exec (.encodeCommand e a b v) s = .next t → exec (.encodeCommand e' a' b' v') s' = .next t' →
    t.results = s.results ++ [.packet k] → t'.results = s'.results ++ [.packet k] →
    e = e' ∧ a = a' ∧ b = b' ∧ v = v')

/-- 30_encoding.md R54: bits 7 to 3 of byte 1 are 0 in every packet any operation emits, from every state
and for every operand combination. -/
def Obligations.ReservedFlagBitsAreZeroInEveryPacket : Prop :=
  ∀ (i : Instr) (s : State), ∃ t r, exec i s = .next t ∧ t.results = s.results ++ [r] ∧
    (i.unit = .commandSerializer ↔ ∃ k, r = .packet k) ∧
    ∀ k, r = .packet k → ∀ j, 3 ≤ j → j ≤ 7 → k.byte1.getLsbD j = false

/-- 30_encoding.md R60, 70_reset_and_hazards.md R105: bits are bound by name. The second argument is in
bit 0, the third in bit 1 and the first in bit 2, so swapping the two buttons changes the packet unless they are equal. -/
def Obligations.ButtonBitsFollowNamesNotArgumentOrder : Prop :=
  ∀ (enabled buttonA buttonB : Bool) (speed : Nat) (s : State),
    ∃ t k t' k', exec (.encodeCommand enabled buttonA buttonB speed) s = .next t ∧
      t.results = s.results ++ [.packet k] ∧
      k.byte1.getLsbD 0 = buttonA ∧ k.byte1.getLsbD 1 = buttonB ∧ k.byte1.getLsbD 2 = enabled ∧
      exec (.encodeCommand enabled buttonB buttonA speed) s = .next t' ∧
      t'.results = s.results ++ [.packet k'] ∧ (k = k' ↔ buttonA = buttonB)

/-- 93_implementation_defined.md U1: in contract the packet does not depend on the truncation. Whatever
function `trunc` a device uses, if it keeps 0 to 255 then byte 0 is `trunc speed`. -/
def Obligations.InContractPacketIndependentOfTruncation : Prop :=
  ∀ trunc : Nat → Byte, (∀ v, v ≤ 255 → (trunc v).toNat = v) →
    ∀ (enabled buttonA buttonB : Bool) (speed : Nat) (s : State), speed ≤ 255 →
      ∃ t, exec (.encodeCommand enabled buttonA buttonB speed) s = .next t ∧
        t.results = s.results ++ [.packet
          { byte0 := trunc speed, byte1 := flagByte enabled buttonA buttonB }]

/-! ### decodeCount -/

/-- 42_count_deserializer.md R73: the little-endian count of bytes 0 and 1, or `MalformedPacket` and no
count when the length is below 2; no state; and the frame: nothing but CD's own ports, the result handed
over and the model's free counter changes. That the free counter exists and advances is the MODEL's choice
(log entry 5). -/
def Obligations.DecodeCountReturnsLittleEndianCountOrMalformed : Prop :=
  ∀ (payload : Payload) (s : State),
    (2 ≤ payload.len →
      exec (.decodeCount payload) s =
        .next { s with
          cd := payload
          results := s.results ++
            [.count (BitVec.ofNat 16 (payload.lane0.toNat + 256 * payload.lane1.toNat))]
          freeCounter := s.freeCounter + 1 }) ∧
    (payload.len < 2 →
      exec (.decodeCount payload) s =
        .next { s with
          cd := payload
          results := s.results ++ [.error .malformedPacket]
          freeCounter := s.freeCounter + 1 })

/-- 42_count_deserializer.md R74: the check is on the length alone. `MalformedPacket`, and `cd_err = 1`,
exactly for lengths 0 and 1, whatever the bytes; every other length, one above `PMAX` too, succeeds. -/
def Obligations.MalformedPacketExactlyBelowTwoBytes : Prop :=
  ∀ (payload : Payload) (s : State),
    ∃ t, exec (.decodeCount payload) s = .next t ∧
      (t.results = s.results ++ [.error .malformedPacket] ↔ payload.len = 0 ∨ payload.len = 1) ∧
      (t.cdErr = true ↔ payload.len = 0 ∨ payload.len = 1) ∧
      (2 ≤ payload.len → ∃ c, t.results = s.results ++ [.count c])

/-- 42_count_deserializer.md R75: bytes at offsets 2 and above, and the length beyond 2, have no effect on
the result or on any output of CD; with a length below 2 no lane has an effect. -/
def Obligations.ExtraBytesAndUnusedLanesHaveNoEffect : Prop :=
  ∀ (p q : Payload) (s : State),
    (2 ≤ p.len → 2 ≤ q.len → p.lane0 = q.lane0 → p.lane1 = q.lane1 →
      ∃ r t u, exec (.decodeCount p) s = .next t ∧ exec (.decodeCount q) s = .next u ∧
        t.results = s.results ++ [r] ∧ u.results = s.results ++ [r] ∧
        t.cdErr = u.cdErr ∧ t.cdCount = u.cdCount) ∧
    (p.len < 2 → q.len < 2 →
      ∃ r t u, exec (.decodeCount p) s = .next t ∧ exec (.decodeCount q) s = .next u ∧
        t.results = s.results ++ [r] ∧ u.results = s.results ++ [r] ∧ t.cdErr = u.cdErr)

/-- 42_count_deserializer.md R76: the count is unsigned, at most 65535, nothing wraps, and the top bit of
byte 1 is bit 15 of the count. -/
def Obligations.CountIsUnsignedAndNeverOverflows : Prop :=
  ∀ (payload : Payload) (s : State), 2 ≤ payload.len →
    payload.lane0.toNat + 256 * payload.lane1.toNat ≤ 65535 ∧
    ∃ t c, exec (.decodeCount payload) s = .next t ∧ t.results = s.results ++ [.count c] ∧
      c.toNat = payload.lane0.toNat + 256 * payload.lane1.toNat ∧
      c.getLsbD 15 = payload.lane1.getLsbD 7 ∧
      (payload.lane0 = 0x00 → payload.lane1 = 0x80 → c.toNat = 32768)

/-- 42_count_deserializer.md R77: decoding the harness's little-endian bytes of a count gives the count,
for every count; and every count comes from exactly one pair of bytes 0 and 1. -/
def Obligations.CountRoundTripIsBijective : Prop :=
  (∀ (count : Nat) (payload : Payload) (s : State), count ≤ 65535 →
    payloadBytes payload = encodeCountLE count →
    ∃ t c, exec (.decodeCount payload) s = .next t ∧ t.results = s.results ++ [.count c] ∧
      c.toNat = count) ∧
  (∀ c : Count, ∃ b0 b1 : Byte, ∀ (payload : Payload) (s : State), 2 ≤ payload.len →
    ∃ t, exec (.decodeCount payload) s = .next t ∧
      (t.results = s.results ++ [.count c] ↔ payload.lane0 = b0 ∧ payload.lane1 = b1))

/-- 10_state.md R20, 60_exceptions.md R85: what the ports of CD show after a transaction. `cd_err` is 0 exactly
for a length of 2 or more, and then `cd_count` is the count handed over. With `cd_err = 1` the error alone is
handed over, and nothing is said of `cd_count` (92_eei_decisions.md D11). -/
def Obligations.CountPortValidExactlyWithoutError : Prop :=
  ∀ (payload : Payload) (s : State), ∃ t, exec (.decodeCount payload) s = .next t ∧
    (t.cdErr = false ↔ 2 ≤ payload.len) ∧
    (t.cdErr = false →
      t.cdCount.toNat = payload.lane0.toNat + 256 * payload.lane1.toNat ∧
      t.results = s.results ++ [.count t.cdCount]) ∧
    (t.cdErr = true → t.results = s.results ++ [.error .malformedPacket])

/-! ### The error -/

/-- 60_exceptions.md R79: exactly one error exists, and its only cause is `decodeCount` on a payload of
fewer than 2 bytes; `buildAddress` and `encodeCommand` raise nothing under any operands. -/
def Obligations.OnlyErrorIsMalformedPacketFromShortPayload : Prop :=
  (∀ e : BlockError, e = .malformedPacket) ∧
  ∀ (i : Instr) (s : State), ∃ t r, exec i s = .next t ∧ t.results = s.results ++ [r] ∧
    ((∃ e, r = .error e) ↔ ∃ payload, i = .decodeCount payload ∧ payload.len < 2)

/-- 60_exceptions.md R88: the error is not sticky. After a failed transaction the next one, on any unit,
gives what it would have given without it, and a payload of 2 or more bytes gives `cd_err = 0`. -/
def Obligations.ErrorIsNotSticky : Prop :=
  ∀ (short : Payload) (i : Instr) (s : State), short.len < 2 →
    ∃ t t' u r, exec (.decodeCount short) s = .next t ∧ exec i t = .next t' ∧ exec i s = .next u ∧
      t'.results = s.results ++ [.error .malformedPacket, r] ∧ u.results = s.results ++ [r] ∧
      ∀ long : Payload, i = .decodeCount long → 2 ≤ long.len → t'.cdErr = false ∧ ∃ c, r = .count c

/-! ### All transactions -/

/-- 92_eei_decisions.md D19, 10_state.md R13: from every state and for every operand the machine, which
works through ports, completes with exactly the result of the spec's state-free transaction function.
Above 255 and above 15 this rests on log entries 6 and 7. -/
def Obligations.MachineRefinesTransactionFunction : Prop :=
  ∀ (i : Instr) (s : State), ∃ t, exec i s = .next t ∧ t.results = s.results ++ [transaction i]

/-- 10_state.md R13, R18 to R20, 92_eei_decisions.md D1: a transaction leaves the parameters, the caller's
list and the ports of every other unit as they were, and its own unit's outputs show its result. (That port
levels are held between transactions is the model's choice, log entry 1.) -/
def Obligations.TransactionTouchesItsOwnUnitOnly : Prop :=
  ∀ (i : Instr) (s : State), ∃ t, exec i s = .next t ∧
    t.config = s.config ∧ t.pending = s.pending ∧
    (i.unit ≠ .addressRouter → t.ar = s.ar) ∧ (i.unit ≠ .commandSerializer → t.cs = s.cs) ∧
    (i.unit ≠ .countDeserializer → t.cd = s.cd) ∧
    (∀ u, u ≠ i.unit → t.output u = s.output u) ∧
    t.results = s.results ++ [t.output i.unit]

/-- 20_memory.md R41: (a) a result depends on the transaction's own operands only; (b) any two
transactions commute, and on different units both results stand on the outputs at the same time; (c)
repeating a transaction repeats its result. That the outputs of the first unit still stand when the second is
used rests on port levels held between transactions, and "at the same time" is said of the state after two
steps of one transaction each: the MODEL's choice and reading (log entries 1 and 12). That both orders
advance the free counter alike is the MODEL's too (log entry 5). -/
def Obligations.TransactionsCommuteAndRepeat : Prop :=
  ∀ (i j : Instr), ∃ ri rj : Result, ∀ s : State, ∃ ti tj tij tji tii,
    exec i s = .next ti ∧ exec j s = .next tj ∧
    exec j ti = .next tij ∧ exec i tj = .next tji ∧ exec i ti = .next tii ∧
    ti.results = s.results ++ [ri] ∧ tj.results = s.results ++ [rj] ∧
    tij.results = s.results ++ [ri, rj] ∧ tji.results = s.results ++ [rj, ri] ∧
    tii.results = s.results ++ [ri, ri] ∧
    (i.unit ≠ j.unit →
      tij.output i.unit = ri ∧ tij.output j.unit = rj ∧
      tij = { tji with results := tij.results })

/-! ### The step -/

/-- A step runs the decoded operation: the caller's next presentation, when it decodes, is executed on the
state without it. (The list of pending transactions and the form of a presentation are the
model's choice, log entries 3 and 8.) -/
def Obligations.StepRunsDecodedOperation : Prop :=
  ∀ (s : State) (pr : Presentation) (rest : List Presentation) (i : Instr),
    s.pending = pr :: rest → decode s.config pr = .ok i →
    step s = exec i { s with pending := rest }

/-- With no transaction to present nothing happens but that the free value of `cd_count` is taken anew
(the model's choice, log entries 4 and 5). -/
def Obligations.StepWithoutTransactionChangesNothing : Prop :=
  ∀ s : State, s.pending = [] → step s = .next { s with freeCounter := s.freeCounter + 1 }

/-- The only stop of a step is a refusal by name, exactly when the caller's next entry is not a
presentation on the ports of its unit (10_state.md R23). In particular a step never stops on an operation.
The refusal is the MODEL's choice (log entry 8), and so is that a step with no transaction to present gives a
next state and does not stop (log entry 4). -/
def Obligations.StepStopsOnlyOnUnpresentableLevels : Prop :=
  ∀ s : State,
    (∀ f, step s ≠ .fault f) ∧
    (∀ why, step s = .refused why ↔
      ∃ pr rest e, s.pending = pr :: rest ∧ decode s.config pr = .error e ∧ why = .notPresentable e) ∧
    ((∃ t, step s = .next t) ↔
      ∀ pr rest, s.pending = pr :: rest → ∃ i : Instr, i.wellFormed s.config = true ∧ encode i = pr)

/-- 10_state.md R13, 20_memory.md R41: what a step hands to the caller depends on nothing the block was given before. Two
states with the same parameters and the same list of transactions to come, and whatever port levels,
results and free values, give the same new results. (The list of transactions to come is the model's, log
entry 3; that a step without one hands over nothing is the model's choice, log entry 4.) -/
def Obligations.StepResultIndependentOfPast : Prop :=
  ∀ (s s' t : State), s.config = s'.config → s.pending = s'.pending → step s = .next t →
    ∃ t' new, step s' = .next t' ∧ t.results = s.results ++ new ∧ t'.results = s'.results ++ new ∧
      t'.pending = t.pending ∧ t'.config = t.config

/-- Every step that gives a next state keeps the invariant: legal parameters, port levels of their ports'
widths, identifiers of `AW` bits and packets with zero reserved bits (10_state.md R18 to R20, 30_encoding.md R54).
The idle step is the model's choice (log entry 4). -/
def Obligations.StepKeepsInvariant : Prop :=
  ∀ s t : State, s.Inv → step s = .next t → t.Inv

/-- 92_eei_decisions.md D22: presenting any finite list of transactions the ports can carry, from any
state, completes and hands over exactly the list of their results, in order. The list of pending transactions is the
MODEL's choice (log entry 3) and one transaction a step its reading (log entry 12); for speeds above 255 and
sub-indexes above 15 the results rest on log entries 6 and 7. -/
def Obligations.TransactionListGivesListOfResults : Prop :=
  ∀ (is : List Instr) (later : List Presentation) (s : State),
    (∀ i ∈ is, i.wellFormed s.config = true) → s.pending = is.map encode ++ later →
    ∃ t : State, Host.Core.run Sys2Proof.core is.length s = .next t ∧
      t.results = s.results ++ is.map transaction ∧ t.pending = later ∧ t.config = s.config

/-- The very next step after `withFetchWord` runs the operation of the table word (log entries 3 and 9). -/
def Obligations.FetchedTableWordRunsNext : Prop :=
  ∀ (s : State) (nbits w : Nat) (i : Instr),
    decodeTableWordAt s.config nbits w = some i → i.wellFormed s.config = true →
    step (s.withFetchWord nbits w) = exec i s

/-! ### Encodings -/

/-- For every operation whose operands the ports carry, at every value of them, in and out of contract:
decoding its presentation gives it back. (The form of a presentation is the model's choice, log entry 8.) -/
def Obligations.DecodeOfEncodeIsIdentity : Prop :=
  ∀ (p : Params) (i : Instr), i.wellFormed p = true → decode p (encode i) = .ok i

/-- The decoder answers only operations whose operands the ports carry, and each presentation has one
meaning: encoding the answer gives the presentation back. (The form of a presentation is the model's choice,
log entry 8.) -/
def Obligations.DecodeAnswersWellFormedAndIsInjective : Prop :=
  ∀ (p : Params) (pr : Presentation) (i : Instr), decode p pr = .ok i →
    i.wellFormed p = true ∧ encode i = pr

/-- 30_encoding.md R46, R47, R48: from the table word of every in-contract operation the operands can be
read back: the whole operation for formats ADDR and CMD, bytes 0 and 1 for CNT, whose length is not in the
word (R58; the decoded length 2 and zero other lanes are the model's choice, log entry 10). The picture read as one
number with byte 0 in bits 15:8 is the model's reading (DEDUCED, log entry 9). -/
def Obligations.TableWordReadsBackOperands : Prop :=
  ∀ (p : Params) (i : Instr), i.wellFormed p = true → i.inContract = true →
    ∃ j, decodeWord p i.unit (encodeWord i) = some j ∧ transaction j = transaction i ∧
      (i.unit ≠ .countDeserializer → j = i) ∧
      (∀ payload, i = .decodeCount payload →
        j = .decodeCount { payload with len := 2, rest := List.replicate (p.pmax - 2) 0 })

/-- 30_encoding.md R46, R47, R48: the table word is what the operation produces or consumes. In contract,
the identifier is the word, the packet's two bytes are the word's bytes, and the count is made of the
word's bytes. The picture of two bytes read as one number with byte 0 in bits 15:8 is the model's reading
(DEDUCED, log entry 9). -/
def Obligations.TableWordIsWhatTheOperationProduces : Prop :=
  ∀ (i : Instr) (s : State), i.inContract = true →
    ∃ t r, exec i s = .next t ∧ t.results = s.results ++ [r] ∧
      match r with
      | .identifier a => i.unit = .addressRouter ∧ a = encodeWord i
      | .packet k => i.unit = .commandSerializer ∧ k.byte0.toNat * 256 + k.byte1.toNat = encodeWord i
      | .count c => i.unit = .countDeserializer ∧
          c.toNat % 256 = encodeWord i / 256 ∧ c.toNat / 256 = encodeWord i % 256
      | .error _ => False

/-- Words written out from the formats of 30_encoding.md: ADDR 0000 0011 0001, CMD 01100100 00000110,
CNT 00110100 00010010, and a CMD word with a reserved bit set, which the format does not admit. Byte 0
in bits 15:8 of a word is the model's reading (DEDUCED, log entry 9); that `decodeTableWord` takes a 12-bit word
for ADDR (log entry 9), and the length 2 and zero other lanes of the CNT payload (log entry 10), are the MODEL's
choice. -/
def Obligations.WrittenOutWordsDecode : Prop :=
  decodeWord Params.taken .addressRouter 0b000000110001 = some (.buildAddress 3 1) ∧
  decodeWord Params.taken .commandSerializer 0b0110010000000110 =
    some (.encodeCommand true false true 100) ∧
  decodeWord Params.taken .countDeserializer 0b0011010000010010 =
    some (.decodeCount { len := 2, lane0 := 0x34, lane1 := 0x12, rest := [0, 0, 0, 0, 0, 0] }) ∧
  decodeWord Params.taken .commandSerializer 0b0110010000001110 = none ∧
  decodeTableWord 12 0b000000110001 = some (.buildAddress 3 1)
end

