-- ==== Sys2Proof/Laws/Operands.lean ====
section
/-! SUPPORT. One lemma per operation on operands, in terms of arithmetic. -/

namespace Sys2Proof.Machine

theorem b2i_le_one (f : Bool) : b2i f ≤ 1 := by cases f <;> decide

/-- The shifted class has four zero low bits. -/
theorem assembleIdentifier_eq_mul_or (c i : Nat) : assembleIdentifier c i = (c * 16) ||| i := by
  simp [assembleIdentifier, Config.shift, Nat.shiftLeft_eq]

theorem assembleIdentifier_mod (c i : Nat) : assembleIdentifier c i % 16 = i % 16 := by
  have h := Nat.or_mod_two_pow (a := c <<< 4) (b := i) (n := 4)
  have z : c <<< 4 % 2 ^ 4 = 0 := by simp [Nat.shiftLeft_eq]
  rw [z, Nat.zero_or] at h
  exact h

theorem assembleIdentifier_shiftRight (c i : Nat) : assembleIdentifier c i >>> 4 = c ||| (i >>> 4) := by
  simp [assembleIdentifier, Config.shift, Nat.shiftRight_or_distrib]

/-- An identifier is the class field times 16 plus the sub-index field (30_encoding.md R46). -/
theorem assembleIdentifier_fields (c i : Nat) :
    assembleIdentifier c i = (c ||| (i >>> 4)) * 16 + i % 16 := by
  have h1 := assembleIdentifier_shiftRight c i
  have h2 := assembleIdentifier_mod c i
  rw [Nat.shiftRight_eq_div_pow] at h1
  omega

theorem assembleIdentifier_lt (p : Params) (c i : Nat) (hc : c < 2 ^ p.cw) (hi : i < 2 ^ p.iw) :
    assembleIdentifier c i < 2 ^ p.aw := by
  apply Nat.or_lt_two_pow
  · have : c <<< 4 < 2 ^ (p.cw + 4) := by rw [Nat.shiftLeft_eq, pow_add]; omega
    exact this.trans_le (Nat.pow_le_pow_right (by decide) (le_max_left _ _))
  · exact hi.trans_le (Nat.pow_le_pow_right (by decide) (le_max_right _ _))

theorem flagFold_three (e b a : Bool) : flagFold [e, b, a] = 4 * b2i e + 2 * b2i b + b2i a := by
  cases e <;> cases b <;> cases a <;> decide

theorem flagByte_eq (e a b : Bool) :
    flagByte e a b = BitVec.ofNat 8 (4 * b2i e + 2 * b2i b + b2i a) := by
  rw [flagByte, flagFold_three]

theorem flagByte_toNat (e a b : Bool) :
    (flagByte e a b).toNat = 4 * b2i e + 2 * b2i b + b2i a := by
  cases e <;> cases b <;> cases a <;> decide

theorem speedByte_toNat (v : Nat) : (speedByte v).toNat = v % 256 := by simp [speedByte]

theorem assembleCount_toNat (lo hi : Byte) : (assembleCount lo hi).toNat = lo.toNat + 256 * hi.toNat := by
  have hl := lo.isLt
  have hh := hi.isLt
  have h : (hi.toNat <<< 8) ||| lo.toNat = hi.toNat <<< 8 + lo.toNat :=
    (Nat.shiftLeft_add_eq_or_of_lt hl _).symm
  simp only [assembleCount, BitVec.toNat_or, BitVec.toNat_shiftLeft, BitVec.toNat_setWidth]
  rw [Nat.mod_eq_of_lt (by omega), Nat.mod_eq_of_lt (show hi.toNat < 2 ^ 16 by omega),
    Nat.mod_eq_of_lt (by rw [Nat.shiftLeft_eq]; omega), Nat.or_comm, h, Nat.shiftLeft_eq]
  omega

theorem assembleCount_eq_ofNat (lo hi : Byte) :
    assembleCount lo hi = BitVec.ofNat 16 (lo.toNat + 256 * hi.toNat) := by
  rw [← assembleCount_toNat, BitVec.ofNat_toNat, BitVec.setWidth_eq]

@[simp] theorem assemblePacket_byte0 (e a b : Bool) (v : Nat) :
    (assemblePacket e a b v).byte0 = speedByte v := rfl

@[simp] theorem assemblePacket_byte1 (e a b : Bool) (v : Nat) :
    (assemblePacket e a b v).byte1 = flagByte e a b := rfl

@[simp] theorem packet_bytes_length (k : Packet) : k.bytes.length = 2 := rfl

/-- Both lanes exist, so the byte sequence is short exactly when the length is (42 R74). -/
theorem payloadBytes_length_lt_two (pl : Payload) : (payloadBytes pl).length < 2 ↔ pl.len < 2 := by
  simp only [payloadBytes, payloadLanes, List.length_take, List.length_cons]
  omega

/-- The first two bytes of a payload of length 2 or more are lanes 0 and 1 (10_state.md R20). -/
theorem memRead_payloadBytes (pl : Payload) (h : 2 ≤ pl.len) :
    memRead (payloadBytes pl) 0 2 = pl.lane0.toNat + 256 * pl.lane1.toNat := by
  obtain ⟨n, hn⟩ : ∃ n, pl.len = n + 2 := ⟨pl.len - 2, by omega⟩
  simp [memRead, payloadBytes, payloadLanes, hn, littleEndian]

end Sys2Proof.Machine
end

