-- ==== Sys2Proof/Laws/State.lean ====
section
/-! SUPPORT. One lemma per field per update of State, each true by `rfl`, so that no proof unfolds a
record update. -/

namespace Sys2Proof.Machine.State

variable (s : State)

section driveAr
variable (c i : Nat)
@[simp] theorem driveAr_config : (s.driveAr c i).config = s.config := rfl
@[simp] theorem driveAr_ar : (s.driveAr c i).ar = { deviceClass := c, subIndex := i } := rfl
@[simp] theorem driveAr_cs : (s.driveAr c i).cs = s.cs := rfl
@[simp] theorem driveAr_cd : (s.driveAr c i).cd = s.cd := rfl
@[simp] theorem driveAr_pending : (s.driveAr c i).pending = s.pending := rfl
@[simp] theorem driveAr_results : (s.driveAr c i).results = s.results := rfl
@[simp] theorem driveAr_freeCounter : (s.driveAr c i).freeCounter = s.freeCounter := rfl
end driveAr

section driveCs
variable (e a b : Bool) (v : Nat)
@[simp] theorem driveCs_config : (s.driveCs e a b v).config = s.config := rfl
@[simp] theorem driveCs_ar : (s.driveCs e a b v).ar = s.ar := rfl
@[simp] theorem driveCs_cs :
    (s.driveCs e a b v).cs = { enabled := e, buttonA := a, buttonB := b, speed := v } := rfl
@[simp] theorem driveCs_cd : (s.driveCs e a b v).cd = s.cd := rfl
@[simp] theorem driveCs_pending : (s.driveCs e a b v).pending = s.pending := rfl
@[simp] theorem driveCs_results : (s.driveCs e a b v).results = s.results := rfl
@[simp] theorem driveCs_freeCounter : (s.driveCs e a b v).freeCounter = s.freeCounter := rfl
end driveCs

section driveCd
variable (pl : Payload)
@[simp] theorem driveCd_config : (s.driveCd pl).config = s.config := rfl
@[simp] theorem driveCd_ar : (s.driveCd pl).ar = s.ar := rfl
@[simp] theorem driveCd_cs : (s.driveCd pl).cs = s.cs := rfl
@[simp] theorem driveCd_cd : (s.driveCd pl).cd = pl := rfl
@[simp] theorem driveCd_pending : (s.driveCd pl).pending = s.pending := rfl
@[simp] theorem driveCd_results : (s.driveCd pl).results = s.results := rfl
@[simp] theorem driveCd_freeCounter : (s.driveCd pl).freeCounter = s.freeCounter := rfl
end driveCd

section record
variable (r : Result)
@[simp] theorem record_config : (s.record r).config = s.config := rfl
@[simp] theorem record_ar : (s.record r).ar = s.ar := rfl
@[simp] theorem record_cs : (s.record r).cs = s.cs := rfl
@[simp] theorem record_cd : (s.record r).cd = s.cd := rfl
@[simp] theorem record_pending : (s.record r).pending = s.pending := rfl
@[simp] theorem record_results : (s.record r).results = s.results ++ [r] := rfl
@[simp] theorem record_freeCounter : (s.record r).freeCounter = s.freeCounter + 1 := rfl
end record

section idle
@[simp] theorem idle_config : s.idle.config = s.config := rfl
@[simp] theorem idle_ar : s.idle.ar = s.ar := rfl
@[simp] theorem idle_cs : s.idle.cs = s.cs := rfl
@[simp] theorem idle_cd : s.idle.cd = s.cd := rfl
@[simp] theorem idle_pending : s.idle.pending = s.pending := rfl
@[simp] theorem idle_results : s.idle.results = s.results := rfl
@[simp] theorem idle_freeCounter : s.idle.freeCounter = s.freeCounter + 1 := rfl
end idle

section present
variable (pr : Presentation)
@[simp] theorem present_config : (s.present pr).config = s.config := rfl
@[simp] theorem present_ar : (s.present pr).ar = s.ar := rfl
@[simp] theorem present_cs : (s.present pr).cs = s.cs := rfl
@[simp] theorem present_cd : (s.present pr).cd = s.cd := rfl
@[simp] theorem present_pending : (s.present pr).pending = pr :: s.pending := rfl
@[simp] theorem present_results : (s.present pr).results = s.results := rfl
@[simp] theorem present_freeCounter : (s.present pr).freeCounter = s.freeCounter := rfl
end present

end Sys2Proof.Machine.State
end

