-- ==== Sys2Proof/Laws/Ops.lean ====
section
/-! SUPPORT. What the output ports show after driving and recording, what an operation does, and what a
step can do. -/

namespace Sys2Proof.Machine

namespace State

variable (s : State)

/-- The operands of an operation on the ports of its unit. -/
def drive (s : State) : Instr → State
  | .buildAddress c i => s.driveAr c i
  | .encodeCommand e a b v => s.driveCs e a b v
  | .decodeCount pl => s.driveCd pl

@[simp] theorem drive_config (i : Instr) : (s.drive i).config = s.config := by cases i <;> rfl
@[simp] theorem drive_pending (i : Instr) : (s.drive i).pending = s.pending := by cases i <;> rfl
@[simp] theorem drive_results (i : Instr) : (s.drive i).results = s.results := by cases i <;> rfl
@[simp] theorem drive_freeCounter (i : Instr) : (s.drive i).freeCounter = s.freeCounter := by cases i <;> rfl

@[simp] theorem arAddr_driveAr (c i : Nat) : (s.driveAr c i).arAddr = assembleIdentifier c i := rfl

@[simp] theorem csPacket_driveCs (e a b : Bool) (v : Nat) :
    (s.driveCs e a b v).csPacket = assemblePacket e a b v := rfl

@[simp] theorem cdErr_driveCd (pl : Payload) : (s.driveCd pl).cdErr = decide (pl.len < 2) := rfl

theorem csLen_eq : s.csLen = 2 := rfl

theorem cdCount_of_not_err (h : s.cdErr = false) : s.cdCount = assembleCount s.cd.lane0 s.cd.lane1 := by
  simp [cdCount, h]

@[simp] theorem cdErr_record (r : Result) : (s.record r).cdErr = s.cdErr := rfl

/-- Recording a result changes no output that carries a result: with `cd_err = 1` there is no count. -/
@[simp] theorem output_record (r : Result) (u : BlockUnit) : (s.record r).output u = s.output u := by
  cases u with
  | addressRouter => rfl
  | commandSerializer => rfl
  | countDeserializer =>
    cases h : s.cdErr <;> simp [output, cdCount, h]

/-- A unit's outputs depend on its own ports only. -/
theorem output_drive_of_ne (i : Instr) (u : BlockUnit) (h : u ≠ i.unit) :
    (s.drive i).output u = s.output u := by
  cases i <;> cases u <;> first | rfl | exact absurd rfl h

end State

/-- What an operation does: it drives its unit's ports and records what that unit's outputs show. -/
theorem exec_eq (i : Instr) (s : State) :
    exec i s = .next ((s.drive i).record ((s.drive i).output i.unit)) := by
  cases i with
  | buildAddress c i => rfl
  | encodeCommand e a b v => rfl
  | decodeCount pl =>
    show execDecodeCount pl s =
      .next ((s.driveCd pl).record ((s.driveCd pl).output .countDeserializer))
    by_cases h : (s.driveCd pl).cdErr = true
    · simp only [execDecodeCount, State.output, State.raise, if_pos h]
    · simp only [execDecodeCount, State.output, if_neg h]

/-- Everything a step that gives a next state can do. -/
theorem step_next_cases {s t : State} (h : step s = .next t) :
    (s.pending = [] ∧ t = s.idle) ∨
    ∃ pr rest i, s.pending = pr :: rest ∧ decode s.config pr = .ok i ∧
      exec i { s with pending := rest } = .next t := by
  unfold step State.fetch at h
  cases hp : s.pending with
  | nil => rw [hp] at h; exact .inl ⟨rfl, by injection h with h; exact h.symm⟩
  | cons pr rest =>
    rw [hp] at h
    cases hd : decode s.config pr with
    | ok i => simp only [hd] at h; exact .inr ⟨pr, rest, i, rfl, hd, h⟩
    | error e => simp [hd] at h

end Sys2Proof.Machine
end

