-- ==== Sys2Proof/Laws/PerInstr.lean ====
section
/-! SUPPORT. One statement per operation, about its presentation on ports: it is on the operation's own
unit and, for operands the ports carry, it has one level for each input port (10_state.md R18, R19, R20). -/

namespace Sys2Proof.Laws

/-- The number of input ports of a unit. -/
def inputPorts (p : Params) : BlockUnit → Nat
  | .addressRouter => 2
  | .commandSerializer => 4
  | .countDeserializer => 1 + p.pmax

namespace EncodePorts

def Statement (i : Instr) : Prop :=
  (encode i).unit = i.unit ∧
  ∀ p : Params, i.wellFormed p = true → (encode i).levels.length = inputPorts p i.unit

theorem buildAddress (c i : Nat) : Statement (.buildAddress c i) := ⟨rfl, fun _ _ => rfl⟩

theorem encodeCommand (e a b : Bool) (v : Nat) : Statement (.encodeCommand e a b v) :=
  ⟨rfl, fun _ _ => rfl⟩

theorem decodeCount (pl : Payload) : Statement (.decodeCount pl) := by
  refine ⟨rfl, fun p h => ?_⟩
  simp only [Instr.wellFormed, Payload.wellFormed, Bool.and_eq_true, decide_eq_true_eq] at h
  simp only [encode, List.length_cons, List.length_map, Instr.unit, inputPorts]
  omega

end EncodePorts

end Sys2Proof.Laws
end

