-- ==== Sys2Proof/Laws/Transaction.lean ====
section
/-! SUPPORT. The transaction function on each operation, in terms of its operands. -/

namespace Sys2Proof.Machine

theorem transaction_buildAddress (c i : Nat) :
    transaction (.buildAddress c i) = .identifier (assembleIdentifier c i) := by
  rw [assembleIdentifier_eq_mul_or, transaction]

theorem transaction_encodeCommand (e a b : Bool) (v : Nat) :
    transaction (.encodeCommand e a b v) = .packet (assemblePacket e a b v) := by
  have h : speedByte v = BitVec.ofNat 8 (v % 256) := by
    apply BitVec.eq_of_toNat_eq
    rw [speedByte_toNat, BitVec.toNat_ofNat, Nat.mod_mod]
  rw [transaction, ← flagByte_eq, ← h]
  rfl

theorem transaction_decodeCount (pl : Payload) :
    transaction (.decodeCount pl) =
      if pl.len < 2 then .error .malformedPacket else .count (assembleCount pl.lane0 pl.lane1) := by
  rw [transaction]
  unfold countOfBytes
  by_cases h : pl.len < 2
  · rw [if_pos h, if_pos ((payloadBytes_length_lt_two pl).2 h)]
  · rw [if_neg h, if_neg (fun g => h ((payloadBytes_length_lt_two pl).1 g)),
      memRead_payloadBytes pl (by omega), assembleCount_eq_ofNat]

end Sys2Proof.Machine
end

