-- ==== Sys2Proof/Tests/Slice0.lean ====
section
/-! SUPPORT. The model's own tests: well-formedness, decoding, one step per operation, and for each
statement with hypotheses a witness that meets them. Expected values are those of 95_test_vectors.md and
of the rules named. -/

namespace Sys2Proof.Tests

open Sys2Proof.Machine

/-! ### Helpers -/

/-- The results of a step that gives a next state. -/
def resultsOf : Host.Outcome State Fault Refusal → Option (List Result)
  | .next t => some t.results
  | _ => none

/-- Why a step was refused. -/
def refusalOf : Host.Outcome State Fault Refusal → Option Refusal
  | .refused r => some r
  | _ => none

/-- The error of a decoding. -/
def errorOf : Except DecodeError Instr → Option DecodeError
  | .error e => some e
  | .ok _ => none

/-- The operation of a decoding. -/
def instrOf : Except DecodeError Instr → Option Instr
  | .ok i => some i
  | .error _ => none

/-- The first two lanes of a payload, the other lanes 0xFF: a lane at or above the length carries any value. -/
def payloadOf (len : Nat) (lane0 lane1 : Byte) : Payload :=
  { len := len, lane0 := lane0, lane1 := lane1, rest := [0xFF, 0xFF, 0xFF, 0xFF, 0xFF, 0xFF] }

/-- Reset with one transaction presented. -/
def presented (i : Instr) : State := State.reset.present (encode i)

/-- Reset with a wider speed port (`SW` = 16). -/
def wideSpeed : State := { State.reset with config := { Params.taken with sw := 16 } }

/-! ### Well-formedness: each check refuses an ill-formed operand -/

theorem test_wf_class_too_wide : (Instr.buildAddress 256 0).wellFormed Params.taken = false := by decide
theorem test_wf_index_too_wide : (Instr.buildAddress 0 256).wellFormed Params.taken = false := by decide
theorem test_wf_speed_too_wide :
    (Instr.encodeCommand true true true 256).wellFormed Params.taken = false := by decide
theorem test_wf_len_too_wide : (Instr.decodeCount (payloadOf 16 0 0)).wellFormed Params.taken = false := by
  decide
theorem test_wf_lane_missing :
    (Instr.decodeCount { len := 2, lane0 := 0, lane1 := 0, rest := [] }).wellFormed Params.taken = false := by
  decide
theorem test_wf_largest_operands :
    (Instr.buildAddress 255 255).wellFormed Params.taken = true ∧
    (Instr.encodeCommand true true true 255).wellFormed Params.taken = true ∧
    (Instr.decodeCount (payloadOf 15 0 0)).wellFormed Params.taken = true := by decide
theorem test_contract_is_not_well_formedness :
    (Instr.buildAddress 1 16).inContract = false ∧ (Instr.encodeCommand true true true 256).inContract = false ∧
    (Instr.decodeCount (payloadOf 1 0 0)).inContract = false := by decide

/-! ### Decoding: levels in the order of the port tables R18, R19, R20; words of R46, R47, R48 -/

theorem test_decode_ar_ports :
    instrOf (decode Params.taken { unit := .addressRouter, levels := [3, 1] }) =
      some (.buildAddress 3 1) := by decide
/-- 95_test_vectors.md P1 line 2: `cs_enabled` = 1, `cs_button_a` = 0, `cs_button_b` = 1, `cs_speed` = 100. -/
theorem test_decode_cs_ports :
    instrOf (decode Params.taken { unit := .commandSerializer, levels := [1, 0, 1, 100] }) =
      some (.encodeCommand true false true 100) := by decide
theorem test_decode_cd_ports :
    instrOf (decode Params.taken
      { unit := .countDeserializer, levels := [3, 0x34, 0x12, 0xFF, 0xFF, 0xFF, 0xFF, 0xFF, 0xFF] }) =
      some (.decodeCount (payloadOf 3 0x34 0x12)) := by decide
theorem test_decode_rejects_flag_level_two :
    errorOf (decode Params.taken { unit := .commandSerializer, levels := [1, 2, 0, 0] }) =
      some (.levelTooWide .csButtonA) := by decide
theorem test_decode_rejects_wide_class :
    errorOf (decode Params.taken { unit := .addressRouter, levels := [256, 0] }) =
      some (.levelTooWide .arClass) := by decide
theorem test_decode_rejects_wide_byte :
    errorOf (decode Params.taken
      { unit := .countDeserializer, levels := [2, 0x34, 256, 0, 0, 0, 0, 0, 0] }) =
      some (.levelTooWide .cdByte) := by decide
theorem test_decode_rejects_missing_lane :
    errorOf (decode Params.taken { unit := .countDeserializer, levels := [2, 0x34, 0x12] }) =
      some (.wrongPortCount .countDeserializer) := by decide
/-- 95_test_vectors.md P1 line 1: ADDR `0000 0011 0001`. -/
theorem test_decode_addr_word :
    decodeTableWord 12 0b000000110001 = some (.buildAddress 3 1) := by decide
/-- 95_test_vectors.md P1 line 2: CMD `01100100 00000110`. -/
theorem test_decode_cmd_word :
    decodeTableWord 16 0b0110010000000110 = some (.encodeCommand true false true 100) := by decide
/-- 30_encoding.md R48: CNT `llllllll hhhhhhhh` with bytes 0xCD, 0xAB (95_test_vectors.md section 2.3). -/
theorem test_decode_cnt_word :
    decodeTableWord 16 0b1100110110101011 =
      some (.decodeCount { len := 2, lane0 := 0xCD, lane1 := 0xAB, rest := [0, 0, 0, 0, 0, 0] }) := by decide
/-- 30_encoding.md R47: bits 7:3 of byte 1 are zero in every command packet. -/
theorem test_decode_cmd_word_reserved_bit :
    decodeWord Params.taken .commandSerializer 0b0110010000001110 = none := by decide

/-! ### One step per case -/

/-- 95_test_vectors.md section 2.1: (3, 1) gives 0x031. -/
theorem test_step_buildAddress :
    resultsOf (step (presented (.buildAddress 3 1))) = some [.identifier 0x031] := by decide
/-- 95_test_vectors.md section 2.1, out of contract: (5, 19) gives 0x053 under OR (0x063 under a sum). -/
theorem test_step_buildAddress_out_of_contract :
    resultsOf (step (presented (.buildAddress 5 19))) = some [.identifier 0x053] := by decide
/-- 95_test_vectors.md section 2.2: (true, true, false, 1) gives 0x01, 0x05: `buttonA` is bit 0. -/
theorem test_step_encodeCommand :
    resultsOf (step (presented (.encodeCommand true true false 1))) =
      some [.packet { byte0 := 0x01, byte1 := 0x05 }] := by decide
/-- 95_test_vectors.md section 2.2, `SW` = 16: speed 0x1234 gives byte 0 = 0x34. -/
theorem test_step_encodeCommand_wide_speed :
    resultsOf (step (wideSpeed.present (encode (.encodeCommand false false false 0x1234)))) =
      some [.packet { byte0 := 0x34, byte1 := 0x00 }] := by decide
/-- 95_test_vectors.md section 2.3 at the ports: `cd_len` = 15 gives 0x0201. -/
theorem test_step_decodeCount_long :
    resultsOf (step (presented (.decodeCount (payloadOf 15 0x01 0x02)))) = some [.count 0x0201] := by decide
/-- 95_test_vectors.md section 2.3 at the ports: `cd_len` = 1 with 0x34, 0x12 on the lanes is an error. -/
theorem test_step_decodeCount_short :
    resultsOf (step (presented (.decodeCount (payloadOf 1 0x34 0x12)))) =
      some [.error .malformedPacket] := by decide
theorem test_step_refuses_unpresentable :
    refusalOf (step (State.reset.withFetchWord 8 0)) =
      some (.notPresentable (.wrongPortCount .addressRouter)) := by decide
theorem test_step_runs_fetched_word :
    resultsOf (step (State.reset.withFetchWord 16 0xFF07)) =
      some [.packet { byte0 := 0xFF, byte1 := 0x07 }] := by decide

/-! ### Witnesses: each statement's hypotheses can be met -/

theorem witness_BuildAddressReturnsClassShiftedOrIndex :
    (255 : Nat) < 2 ^ Params.taken.cw ∧ (255 : Nat) < 2 ^ Params.taken.iw := by decide
theorem witness_BuildAddressInContractIsSumAndReadsBack : (15 : Nat) ≤ 15 := by decide
/-- For both clauses on common bits: (1, 16) has one, (2, 31) has none; for the class field: (0, 16) changes it,
(1, 16) does not. Serves BuildAddressOutOfContractAliasesAnotherPair too. -/
theorem witness_BuildAddressOutOfContractCorruptsClassSilently :
    (16 : Nat) ≤ 16 ∧ (1 <<< 4) &&& 16 ≠ 0 ∧ (2 <<< 4) &&& 31 = 0 ∧
    (0 ||| (16 >>> 4)) ≠ 0 ∧ (1 ||| (16 >>> 4)) = 1 := by decide
theorem witness_SpeedByteIsSpeedAndIndependentOfFlags : (255 : Nat) ≤ 255 ∧ ¬ (256 : Nat) ≤ 255 := by decide
theorem witness_EncodeCommandClosedFormIsInjective :
    ∃ t k, (255 : Nat) ≤ 255 ∧ exec (.encodeCommand true true false 255) State.reset = .next t ∧
      t.results = State.reset.results ++ [.packet k] := ⟨_, _, by decide, rfl, rfl⟩
theorem witness_ReservedFlagBitsAreZeroInEveryPacket :
    (3 : Nat) ≤ 3 ∧ (7 : Nat) ≤ 7 ∧ ∃ t k, exec (.encodeCommand true true true 255) State.reset = .next t ∧
      t.results = State.reset.results ++ [.packet k] := ⟨by decide, by decide, _, _, rfl, rfl⟩
theorem witness_InContractPacketIndependentOfTruncation :
    (∀ v, v ≤ 255 → (speedByte v).toNat = v) ∧ (255 : Nat) ≤ 255 :=
  ⟨fun v h => (speedByte_toNat v).trans (Nat.mod_eq_of_lt (by omega)), by decide⟩
/-- Both clauses at their boundary; serves MalformedPacketExactlyBelowTwoBytes and
CountPortValidExactlyWithoutError too. -/
theorem witness_DecodeCountReturnsLittleEndianCountOrMalformed :
    2 ≤ (payloadOf 2 0x34 0x12).len ∧ (payloadOf 1 0x34 0x12).len < 2 ∧ (payloadOf 0 0 0).len < 2 := by decide
theorem witness_ExtraBytesAndUnusedLanesHaveNoEffect :
    (2 ≤ (payloadOf 2 0x34 0x12).len ∧ 2 ≤ (payloadOf 15 0x34 0x12).len ∧
      (payloadOf 2 0x34 0x12).lane0 = (payloadOf 15 0x34 0x12).lane0 ∧
      (payloadOf 2 0x34 0x12).lane1 = (payloadOf 15 0x34 0x12).lane1) ∧
    (payloadOf 1 0x34 0x12).len < 2 ∧ (payloadOf 0 0 0).len < 2 := by decide
theorem witness_CountIsUnsignedAndNeverOverflows :
    2 ≤ (payloadOf 2 0x00 0x80).len ∧ (payloadOf 2 0x00 0x80).lane0 = 0x00 ∧
    (payloadOf 2 0x00 0x80).lane1 = 0x80 := by decide
theorem witness_CountRoundTripIsBijective :
    (65535 : Nat) ≤ 65535 ∧ payloadBytes (payloadOf 2 0xFF 0xFF) = encodeCountLE 65535 := by decide
theorem witness_ErrorIsNotSticky :
    (payloadOf 1 0x01 0).len < 2 ∧ 2 ≤ (payloadOf 2 0x34 0x12).len := by decide
/-- Serves TransactionsCommuteAndRepeat and TransactionTouchesItsOwnUnitOnly. -/
theorem witness_TransactionsCommuteAndRepeat :
    (Instr.buildAddress 15 15).unit ≠ (Instr.decodeCount (payloadOf 2 0xFF 0xFF)).unit := by decide
theorem witness_StepRunsDecodedOperation :
    (presented (.buildAddress 3 1)).pending = encode (.buildAddress 3 1) :: [] ∧
    decode (presented (.buildAddress 3 1)).config (encode (.buildAddress 3 1)) = .ok (.buildAddress 3 1) :=
  ⟨rfl, rfl⟩
theorem witness_StepWithoutTransactionChangesNothing : State.reset.pending = [] := rfl
/-- The refusal side, the next side with an operation presented, and the next side with an empty list. -/
theorem witness_StepStopsOnlyOnUnpresentableLevels :
    (∃ pr rest e, (State.reset.withFetchWord 8 0).pending = pr :: rest ∧
      decode (State.reset.withFetchWord 8 0).config pr = .error e ∧
      step (State.reset.withFetchWord 8 0) = .refused (.notPresentable e)) ∧
    ((presented (.buildAddress 3 1)).pending = [encode (.buildAddress 3 1)] ∧
      (Instr.buildAddress 3 1).wellFormed (presented (.buildAddress 3 1)).config = true ∧
      ∃ t, step (presented (.buildAddress 3 1)) = .next t) ∧
    (State.reset.pending = [] ∧ ∃ t, step State.reset = .next t) :=
  ⟨⟨_, _, _, rfl, rfl, rfl⟩, ⟨rfl, by decide, _, rfl⟩, rfl, _, rfl⟩
theorem witness_StepResultIndependentOfPast :
    (presented (.buildAddress 3 1)).config = (State.driveAr (presented (.buildAddress 3 1)) 7 7).config ∧
    (presented (.buildAddress 3 1)).pending = (State.driveAr (presented (.buildAddress 3 1)) 7 7).pending ∧
    ∃ t, step (presented (.buildAddress 3 1)) = .next t := ⟨rfl, rfl, _, rfl⟩
theorem witness_StepKeepsInvariant :
    (presented (.buildAddress 3 1)).Inv ∧ ∃ t, step (presented (.buildAddress 3 1)) = .next t :=
  ⟨⟨by decide, by decide, fun _ h => nomatch h⟩, _, rfl⟩
theorem witness_TransactionListGivesListOfResults :
    (∀ i ∈ [Instr.buildAddress 3 1, .decodeCount (payloadOf 2 0x2A 0)],
      i.wellFormed State.reset.config = true) ∧
    ((presented (.decodeCount (payloadOf 2 0x2A 0))).present (encode (.buildAddress 3 1))).pending =
      [Instr.buildAddress 3 1, .decodeCount (payloadOf 2 0x2A 0)].map encode ++ [] := by decide
theorem witness_FetchedTableWordRunsNext :
    decodeTableWordAt State.reset.config 12 0x031 = some (.buildAddress 3 1) ∧
    (Instr.buildAddress 3 1).wellFormed State.reset.config = true := by decide
/-- The largest operands, out of contract where there is a contract. -/
theorem witness_DecodeOfEncodeIsIdentity :
    (Instr.buildAddress 255 255).wellFormed Params.taken = true ∧
    (Instr.encodeCommand true false true 65535).wellFormed { Params.taken with sw := 16 } = true ∧
    (Instr.decodeCount (payloadOf 15 0 0)).wellFormed Params.taken = true := by decide
theorem witness_DecodeAnswersWellFormedAndIsInjective :
    decode Params.taken { unit := .addressRouter, levels := [255, 255] } = .ok (.buildAddress 255 255) := rfl
/-- Serves TableWordIsWhatTheOperationProduces too. -/
theorem witness_TableWordReadsBackOperands :
    ((Instr.buildAddress 255 15).wellFormed Params.taken = true ∧
      (Instr.buildAddress 255 15).inContract = true) ∧
    ((Instr.encodeCommand true true true 255).wellFormed Params.taken = true ∧
      (Instr.encodeCommand true true true 255).inContract = true) ∧
    ((Instr.decodeCount (payloadOf 2 0 0)).wellFormed Params.taken = true ∧
      (Instr.decodeCount (payloadOf 2 0 0)).inContract = true) := by decide

end Sys2Proof.Tests
end

section
/-! What the ports of CD show, and O21 from it. -/

namespace Sys2Proof.Machine

namespace State

variable {s : State}

theorem output_countDeserializer_of_err (h : s.cdErr = true) :
    s.output .countDeserializer = .error .malformedPacket := if_pos h

theorem output_countDeserializer_of_not_err (h : s.cdErr = false) :
    s.output .countDeserializer = .count s.cdCount := by
  simp [output, h]

/-- Recording moves only the free value of `cd_count`, which a valid count does not read. -/
theorem cdCount_record_of_not_err (r : Result) (h : s.cdErr = false) :
    (s.record r).cdCount = s.cdCount := by
  rw [cdCount_of_not_err _ h, cdCount_of_not_err _ ((cdErr_record s r).trans h), record_cd]

theorem cdErr_driveCd_eq_false_iff (pl : Payload) : (s.driveCd pl).cdErr = false ↔ 2 ≤ pl.len := by
  rw [cdErr_driveCd, decide_eq_false_iff_not, not_lt]

theorem cdCount_driveCd_toNat (pl : Payload) (h : (s.driveCd pl).cdErr = false) :
    (s.driveCd pl).cdCount.toNat = pl.lane0.toNat + 256 * pl.lane1.toNat := by
  rw [cdCount_of_not_err _ h, driveCd_cd, assembleCount_toNat]

end State

/-- `exec_eq` for `decodeCount`: drive the ports of CD, then record what they show. -/
theorem exec_decodeCount (pl : Payload) (s : State) :
    exec (.decodeCount pl) s =
      .next ((s.driveCd pl).record ((s.driveCd pl).output .countDeserializer)) :=
  exec_eq (.decodeCount pl) s

end Sys2Proof.Machine

namespace Sys2Proof

open Sys2Proof.Machine Sys2Proof.Machine.State

/-- Settles O21: recording the result keeps `cd_err` and, where it is valid, `cd_count`, so both are
those of the driven ports. -/
theorem countPortValidExactlyWithoutError : Obligations.CountPortValidExactlyWithoutError := by
  intro payload s
  refine ⟨_, exec_decodeCount payload s, ?_, fun valid => ?_, fun err => ?_⟩
  · rw [cdErr_record, cdErr_driveCd_eq_false_iff]
  · rw [cdErr_record] at valid
    rw [cdCount_record_of_not_err _ valid, output_countDeserializer_of_not_err valid, record_results,
      driveCd_results]
    exact ⟨cdCount_driveCd_toNat payload valid, rfl⟩
  · rw [cdErr_record] at err
    rw [output_countDeserializer_of_err err, record_results, driveCd_results]

end Sys2Proof
end

section
/-! Every operation hands over its transaction's result, drives of different units commute, and O26 from
both. -/

namespace Sys2Proof.Machine

namespace State

variable (s : State)

/-- A unit's outputs, just driven, show the result of the spec's transaction function. -/
@[simp] theorem output_drive_unit (i : Instr) : (s.drive i).output i.unit = transaction i := by
  cases i with
  | buildAddress c i => rw [transaction_buildAddress]; rfl
  | encodeCommand e a b v => rw [transaction_encodeCommand]; rfl
  | decodeCount pl =>
    rw [transaction_decodeCount]
    by_cases short : pl.len < 2
    · rw [if_pos short]
      exact output_countDeserializer_of_err (decide_eq_true short)
    · have valid : (s.driveCd pl).cdErr = false := decide_eq_false short
      rw [if_neg short]
      exact (output_countDeserializer_of_not_err valid).trans
        (congrArg Result.count (cdCount_of_not_err _ valid))

/-- Recording moves no input port. -/
theorem drive_record (r : Result) (i : Instr) : (s.record r).drive i = (s.drive i).record r := by
  cases i <;> rfl

/-- Each unit has ports of its own (92_eei_decisions.md D1). -/
theorem drive_comm_of_unit_ne {i j : Instr} (units : i.unit ≠ j.unit) :
    (s.drive i).drive j = (s.drive j).drive i := by
  cases i <;> cases j
  case buildAddress.buildAddress | encodeCommand.encodeCommand | decodeCount.decodeCount =>
    exact absurd rfl units
  all_goals rfl

/-- The order of two records shows in the list of results alone. -/
theorem record_record_eq_with_results (r r' : Result) :
    (s.record r).record r' =
      { (s.record r').record r with results := ((s.record r).record r').results } := rfl

end State

/-- The state after an operation: its unit's ports are driven and its transaction's result is recorded. -/
def runTransaction (i : Instr) (s : State) : State := (s.drive i).record (transaction i)

/-- `exec_eq` with the result fixed before the state. -/
theorem exec_eq_runTransaction (i : Instr) (s : State) : exec i s = .next (runTransaction i s) := by
  rw [exec_eq, State.output_drive_unit, runTransaction]

section runTransaction

variable (i j : Instr) (s : State)

@[simp] theorem runTransaction_results :
    (runTransaction i s).results = s.results ++ [transaction i] := by
  rw [runTransaction, State.record_results, State.drive_results]

@[simp] theorem output_runTransaction_unit :
    (runTransaction i s).output i.unit = transaction i := by
  rw [runTransaction, State.output_record, State.output_drive_unit]

theorem output_runTransaction_of_ne (u : BlockUnit) (other : u ≠ i.unit) :
    (runTransaction i s).output u = s.output u := by
  rw [runTransaction, State.output_record, State.output_drive_of_ne s i u other]

theorem runTransaction_runTransaction_results :
    (runTransaction j (runTransaction i s)).results =
      s.results ++ [transaction i, transaction j] := by
  rw [runTransaction_results, runTransaction_results, List.append_assoc, List.singleton_append]

/-- Two transactions: all ports are driven first, then the results are recorded in order. -/
theorem runTransaction_runTransaction :
    runTransaction j (runTransaction i s) =
      (((s.drive i).drive j).record (transaction i)).record (transaction j) := by
  rw [runTransaction, runTransaction, State.drive_record]

/-- On different units the order of two transactions shows in the list of results alone. -/
theorem runTransaction_comm_of_unit_ne (units : i.unit ≠ j.unit) :
    runTransaction j (runTransaction i s) =
      { runTransaction i (runTransaction j s) with
        results := (runTransaction j (runTransaction i s)).results } := by
  rw [runTransaction_runTransaction i j, runTransaction_runTransaction j i,
    State.drive_comm_of_unit_ne s units]
  exact State.record_record_eq_with_results _ _ _

end runTransaction

end Sys2Proof.Machine

namespace Sys2Proof

open Sys2Proof.Machine

/-- Settles O26: the results are those of the state-free transaction function, and the drives of different
units commute. -/
theorem transactionsCommuteAndRepeat : Obligations.TransactionsCommuteAndRepeat := by
  intro i j
  refine ⟨transaction i, transaction j, fun s => ⟨_, _, _, _, _,
    exec_eq_runTransaction i s, exec_eq_runTransaction j s,
    exec_eq_runTransaction j _, exec_eq_runTransaction i _, exec_eq_runTransaction i _,
    runTransaction_results i s, runTransaction_results j s,
    runTransaction_runTransaction_results i j s, runTransaction_runTransaction_results j i s,
    runTransaction_runTransaction_results i i s, fun units => ⟨?_, ?_, ?_⟩⟩⟩
  · rw [output_runTransaction_of_ne j _ i.unit units, output_runTransaction_unit]
  · exact output_runTransaction_unit j _
  · exact runTransaction_comm_of_unit_ne i j s units

end Sys2Proof
end

section
/-! The bits of the flag byte, the operations that give a packet, and O13 and O14 from both. -/

namespace Sys2Proof.Machine

section flagByte

variable (e a b : Bool)

theorem flagByte_getLsbD_zero : (flagByte e a b).getLsbD 0 = a := by
  cases e <;> cases a <;> cases b <;> decide

theorem flagByte_getLsbD_one : (flagByte e a b).getLsbD 1 = b := by
  cases e <;> cases a <;> cases b <;> decide

theorem flagByte_getLsbD_two : (flagByte e a b).getLsbD 2 = e := by
  cases e <;> cases a <;> cases b <;> decide

/-- Three flags make a number of three bits. -/
theorem flagByte_toNat_lt_eight : (flagByte e a b).toNat < 8 := by
  rw [flagByte_toNat]
  have enabledBit := b2i_le_one e
  have buttonABit := b2i_le_one a
  have buttonBBit := b2i_le_one b
  omega

/-- 30_encoding.md R54. -/
theorem flagByte_getLsbD_of_three_le {j : Nat} (reserved : 3 ≤ j) :
    (flagByte e a b).getLsbD j = false :=
  Nat.testBit_lt_two_pow
    ((flagByte_toNat_lt_eight e a b).trans_le (Nat.pow_le_pow_right two_pos reserved))

/-- Each button has a bit of its own, so a swap shows in the packet unless it changes nothing. -/
theorem assemblePacket_swap_eq_iff (v : Nat) :
    assemblePacket e a b v = assemblePacket e b a v ↔ a = b := by
  refine ⟨fun same => ?_, fun equal => by rw [equal]⟩
  have byte1 : flagByte e a b = flagByte e b a := congrArg Packet.byte1 same
  rw [← flagByte_getLsbD_zero e a b, byte1, flagByte_getLsbD_zero]

end flagByte

theorem transaction_decodeCount_ne_packet (pl : Payload) (k : Packet) :
    transaction (.decodeCount pl) ≠ .packet k := by
  rw [transaction_decodeCount]
  split <;> exact Result.noConfusion

/-- Every packet is one that `encodeCommand` assembles. -/
theorem encodeCommand_of_transaction_eq_packet {i : Instr} {k : Packet}
    (packet : transaction i = .packet k) :
    ∃ e a b v, i = .encodeCommand e a b v ∧ k = assemblePacket e a b v := by
  cases i with
  | buildAddress => cases packet
  | encodeCommand e a b v =>
    rw [transaction_encodeCommand] at packet
    exact ⟨e, a, b, v, rfl, (Result.packet.inj packet).symm⟩
  | decodeCount pl => exact absurd packet (transaction_decodeCount_ne_packet pl k)

theorem unit_eq_commandSerializer_iff_packet (i : Instr) :
    i.unit = .commandSerializer ↔ ∃ k, transaction i = .packet k := by
  constructor
  · intro unit
    cases i with
    | encodeCommand e a b v => exact ⟨_, transaction_encodeCommand e a b v⟩
    | buildAddress | decodeCount => cases unit
  · rintro ⟨k, packet⟩
    obtain ⟨e, a, b, v, rfl, -⟩ := encodeCommand_of_transaction_eq_packet packet
    rfl

theorem runTransaction_encodeCommand_results (e a b : Bool) (v : Nat) (s : State) :
    (runTransaction (.encodeCommand e a b v) s).results =
      s.results ++ [.packet (assemblePacket e a b v)] := by
  rw [runTransaction_results, transaction_encodeCommand]

end Sys2Proof.Machine

namespace Sys2Proof

open Sys2Proof.Machine

/-- Settles O13: a packet is `encodeCommand`'s, and its byte 1 is a number of three bits. -/
theorem reservedFlagBitsAreZeroInEveryPacket : Obligations.ReservedFlagBitsAreZeroInEveryPacket := by
  intro i s
  refine ⟨_, transaction i, exec_eq_runTransaction i s, runTransaction_results i s,
    unit_eq_commandSerializer_iff_packet i, fun k packet j reserved _ => ?_⟩
  obtain ⟨e, a, b, v, -, rfl⟩ := encodeCommand_of_transaction_eq_packet packet
  exact flagByte_getLsbD_of_three_le e a b reserved

/-- Settles O14: each flag has its bit of byte 1 by name, so the swapped packet shows `buttonB` in bit 0. -/
theorem buttonBitsFollowNamesNotArgumentOrder : Obligations.ButtonBitsFollowNamesNotArgumentOrder :=
  fun e a b v s => ⟨_, _, _, _,
    exec_eq_runTransaction _ s, runTransaction_encodeCommand_results e a b v s,
    flagByte_getLsbD_zero e a b, flagByte_getLsbD_one e a b, flagByte_getLsbD_two e a b,
    exec_eq_runTransaction _ s, runTransaction_encodeCommand_results e b a v s,
    assemblePacket_swap_eq_iff e a b v⟩

end Sys2Proof
end

section
/-! The identifier under OR, in contract and out of it, and O4 to O7 from it. -/

namespace Sys2Proof.Machine

/-- A common bit counts twice in the sum and once in the OR (90_conflicts.md C1). -/
theorem or_add_and_eq_add (x y : Nat) : (x ||| y) + (x &&& y) = x + y := by
  induction x using Nat.div2Induction generalizing y with
  | ind x ih =>
    rcases Nat.eq_zero_or_pos x with rfl | pos
    · rw [Nat.zero_or, Nat.zero_and, add_zero, zero_add]
    · have halves := ih pos (y / 2)
      rw [← Nat.or_div_two, ← Nat.and_div_two] at halves
      have orBit := Nat.or_mod_two_eq_one (a := x) (b := y)
      have andBit := Nat.and_mod_two_eq_one (a := x) (b := y)
      omega

/-- An OR adds nothing to `x` exactly when every bit of `y` is one of `x`. -/
theorem or_eq_left_iff (x y : Nat) :
    (x ||| y) = x ↔ ∀ k, y.testBit k = true → x.testBit k = true := by
  constructor
  · intro same k
    rw [← Bool.or_eq_left_iff_imp, ← Nat.testBit_or, same]
  · intro bits
    refine Nat.eq_of_testBit_eq fun k => ?_
    rw [Nat.testBit_or, Bool.or_eq_left_iff_imp]
    exact bits k

theorem or_ne_left_iff (x y : Nat) :
    (x ||| y) ≠ x ↔ ∃ k, y.testBit k = true ∧ x.testBit k = false := by
  simp only [ne_eq, or_eq_left_iff, not_forall, Bool.not_eq_true, exists_prop]

theorem shiftRight_four_eq_zero_of_le_fifteen {i : Nat} (inContract : i ≤ 15) :
    i >>> 4 = 0 :=
  Nat.shiftRight_eq_zero i 4 (Nat.lt_succ_of_le inContract)

section assembleIdentifier

variable (c i : Nat)

/-- How far the identifier is below the sum: by the bits the shifted class and the sub-index share. -/
theorem assembleIdentifier_add_common :
    assembleIdentifier c i + ((c <<< 4) &&& i) = c * 16 + i := by
  rw [assembleIdentifier, or_add_and_eq_add, Nat.shiftLeft_eq]
  rfl

theorem assembleIdentifier_eq_sum_iff :
    assembleIdentifier c i = c * 16 + i ↔ (c <<< 4) &&& i = 0 := by
  have sum := assembleIdentifier_add_common c i
  omega

theorem assembleIdentifier_lt_sum (common : (c <<< 4) &&& i ≠ 0) :
    assembleIdentifier c i < c * 16 + i := by
  have sum := assembleIdentifier_add_common c i
  omega

/-- 40_address_router.md R62. -/
theorem assembleIdentifier_of_le_fifteen (inContract : i ≤ 15) :
    assembleIdentifier c i = c * 16 + i := by
  rw [assembleIdentifier_fields, shiftRight_four_eq_zero_of_le_fifteen inContract, Nat.or_zero,
    Nat.mod_eq_of_lt (Nat.lt_succ_of_le inContract)]

/-- The two fields of an identifier are an in-contract pair that gives it (70_reset_and_hazards.md R102). -/
theorem assembleIdentifier_of_fields :
    assembleIdentifier (c ||| (i >>> 4)) (i % 16) = assembleIdentifier c i := by
  rw [assembleIdentifier_of_le_fifteen _ _ (by omega), ← assembleIdentifier_fields]

end assembleIdentifier

section runTransaction

variable (c i : Nat) (s : State)

theorem runTransaction_buildAddress :
    runTransaction (.buildAddress c i) s =
      (s.driveAr c i).record (.identifier (assembleIdentifier c i)) := by
  rw [runTransaction, transaction_buildAddress]
  rfl

theorem runTransaction_buildAddress_results :
    (runTransaction (.buildAddress c i) s).results =
      s.results ++ [.identifier (assembleIdentifier c i)] := by
  rw [runTransaction_results, transaction_buildAddress]

end runTransaction

end Sys2Proof.Machine

namespace Sys2Proof

open Sys2Proof.Machine

/-- Settles O4: the transaction drives AR's ports and records the assembled identifier. -/
theorem buildAddressReturnsClassShiftedOrIndex :
    Obligations.BuildAddressReturnsClassShiftedOrIndex := by
  intro c i s
  refine ⟨?_, fun p => assembleIdentifier_lt p c i⟩
  rw [exec_eq_runTransaction, runTransaction_buildAddress]
  rfl

/-- Settles O5: in contract the two operands have no common bit, so the OR is their sum. -/
theorem buildAddressInContractIsSumAndReadsBack :
    Obligations.BuildAddressInContractIsSumAndReadsBack := by
  intro c i s inContract
  have noHighBit := shiftRight_four_eq_zero_of_le_fifteen inContract
  refine ⟨?_, noHighBit, _, assembleIdentifier c i, exec_eq_runTransaction _ s,
    runTransaction_buildAddress_results c i s, assembleIdentifier_of_le_fifteen c i inContract, ?_, ?_⟩
  · rw [Nat.shiftLeft_eq]
    exact Nat.mul_mod_left c 16
  · rw [assembleIdentifier_mod, Nat.mod_eq_of_lt (Nat.lt_succ_of_le inContract)]
  · rw [assembleIdentifier_shiftRight, noHighBit, Nat.or_zero]

/-- Settles O6: the field lemmas and the distance from the sum hold for every pair; out of contract the
sub-index does not fit its field. -/
theorem buildAddressOutOfContractCorruptsClassSilently :
    Obligations.BuildAddressOutOfContractCorruptsClassSilently := by
  intro c i s outOfContract
  have subIndexField := assembleIdentifier_mod c i
  have classField := assembleIdentifier_shiftRight c i
  refine ⟨_, assembleIdentifier c i, exec_eq_runTransaction _ s,
    runTransaction_buildAddress_results c i s, subIndexField, classField, ?_,
    assembleIdentifier_eq_sum_iff c i, assembleIdentifier_lt_sum c i, by omega⟩
  rw [classField]
  exact or_ne_left_iff c (i >>> 4)

/-- Settles O7: the two fields of the identifier are the other pair. -/
theorem buildAddressOutOfContractAliasesAnotherPair :
    Obligations.BuildAddressOutOfContractAliasesAnotherPair := by
  intro c i s _
  refine ⟨.identifier (assembleIdentifier c i), _, _, exec_eq_runTransaction _ s,
    exec_eq_runTransaction _ s, runTransaction_buildAddress_results c i s, ?_,
    decide_eq_true (Nat.le_of_lt_succ (Nat.mod_lt i (by decide)))⟩
  rw [runTransaction_buildAddress_results, assembleIdentifier_of_fields]

end Sys2Proof
end

section
/-! The flag fold step by step, the two bytes of a packet and their operands, and O8 to O12 from them. -/

namespace Sys2Proof.Machine

section flagFold

/-- The shift leaves bit 0 clear, so setting it adds the flag (41_command_serializer.md R67). -/
theorem flagStep_eq (acc : Nat) (f : Bool) : flagStep acc f = 2 * acc + b2i f := by
  have bit : b2i f < 2 ^ 1 := Nat.lt_succ_of_le (b2i_le_one f)
  rw [flagStep, ← Nat.shiftLeft_add_eq_or_of_lt bit, Nat.shiftLeft_eq, pow_one, Nat.mul_comm]

theorem flagFold_append_singleton (flags : List Bool) (f : Bool) :
    flagFold (flags ++ [f]) = 2 * flagFold flags + b2i f := by
  rw [flagFold, List.foldl_append, List.foldl_cons, List.foldl_nil, flagStep_eq, flagFold]

theorem flagFold_singleton (f : Bool) : flagFold [f] = b2i f :=
  (flagFold_append_singleton [] f).trans (Nat.zero_add _)

theorem flagFold_pair (f g : Bool) : flagFold [f, g] = 2 * b2i f + b2i g := by
  rw [← flagFold_singleton f]
  exact flagFold_append_singleton [f] g

end flagFold

section bytes

/-- 41_command_serializer.md R67: byte 1 is the last accumulator, which zero-extension keeps. -/
theorem flagByte_toNat_eq_flagFold (e a b : Bool) :
    (flagByte e a b).toNat = flagFold [e, b, a] := by
  rw [flagByte_toNat, flagFold_three]

/-- Each flag has a bit of its own, so byte 1 gives all three back (41_command_serializer.md R70). -/
theorem eq_of_flagByte_eq {e a b e' a' b' : Bool} (same : flagByte e a b = flagByte e' a' b') :
    e = e' ∧ a = a' ∧ b = b' := by
  refine ⟨?_, ?_, ?_⟩
  · rw [← flagByte_getLsbD_two e a b, same, flagByte_getLsbD_two]
  · rw [← flagByte_getLsbD_zero e a b, same, flagByte_getLsbD_zero]
  · rw [← flagByte_getLsbD_one e a b, same, flagByte_getLsbD_one]

/-- 41_command_serializer.md R68: in contract nothing is truncated. -/
theorem speedByte_toNat_of_le {v : Nat} (inContract : v ≤ 255) : (speedByte v).toNat = v := by
  rw [speedByte_toNat, Nat.mod_eq_of_lt (Nat.lt_succ_of_le inContract)]

theorem eq_of_speedByte_eq {v v' : Nat} (hv : v ≤ 255) (hv' : v' ≤ 255)
    (same : speedByte v = speedByte v') : v = v' := by
  rw [← speedByte_toNat_of_le hv, same, speedByte_toNat_of_le hv']

/-- 30_encoding.md R50, R51: the packet written out in its operands. -/
theorem assemblePacket_eq (e a b : Bool) (v : Nat) :
    assemblePacket e a b v =
      { byte0 := BitVec.ofNat 8 v, byte1 := BitVec.ofNat 8 (4 * b2i e + 2 * b2i b + b2i a) } := by
  rw [← flagByte_eq]
  rfl

end bytes

section runTransaction

variable (e a b : Bool) (v : Nat) (s : State)

theorem runTransaction_encodeCommand :
    runTransaction (.encodeCommand e a b v) s =
      (s.driveCs e a b v).record (.packet (assemblePacket e a b v)) := by
  rw [runTransaction, transaction_encodeCommand]
  rfl

/-- The ports of CS go on showing the packet after the transaction. -/
theorem csPacket_runTransaction_encodeCommand :
    (runTransaction (.encodeCommand e a b v) s).csPacket = assemblePacket e a b v := by
  rw [runTransaction_encodeCommand]
  rfl

theorem csByte0_runTransaction_encodeCommand :
    (runTransaction (.encodeCommand e a b v) s).csByte0 = speedByte v := by
  rw [State.csByte0, csPacket_runTransaction_encodeCommand, assemblePacket_byte0]

theorem csByte1_runTransaction_encodeCommand :
    (runTransaction (.encodeCommand e a b v) s).csByte1 = flagByte e a b := by
  rw [State.csByte1, csPacket_runTransaction_encodeCommand, assemblePacket_byte1]

end runTransaction

/-- The only packet a completed `encodeCommand` hands over is the one assembled from its operands. -/
theorem eq_assemblePacket_of_exec_encodeCommand {e a b : Bool} {v : Nat} {s t : State} {k : Packet}
    (run : exec (.encodeCommand e a b v) s = .next t)
    (results : t.results = s.results ++ [.packet k]) : k = assemblePacket e a b v := by
  rw [exec_eq_runTransaction] at run
  injection run with run
  rw [← run, runTransaction_encodeCommand_results] at results
  injection List.append_cancel_left results with head
  exact (Result.packet.inj head).symm

end Sys2Proof.Machine

namespace Sys2Proof

open Sys2Proof.Machine

/-- Settles O12: each operand is read back from the packet, the speed from byte 0 and each flag from its
bit of byte 1. -/
theorem encodeCommandClosedFormIsInjective : Obligations.EncodeCommandClosedFormIsInjective := by
  constructor
  · intro e a b v s inContract
    exact ⟨_, assemblePacket e a b v, exec_eq_runTransaction _ s,
      runTransaction_encodeCommand_results e a b v s, speedByte_toNat_of_le inContract,
      flagByte_toNat e a b, flagByte_getLsbD_two e a b, flagByte_getLsbD_one e a b,
      flagByte_getLsbD_zero e a b, fun _ reserved _ => flagByte_getLsbD_of_three_le e a b reserved⟩
  · intro e a b e' a' b' v v' s s' t t' k hv hv' run run' results results'
    have same : assemblePacket e a b v = assemblePacket e' a' b' v' :=
      (eq_assemblePacket_of_exec_encodeCommand run results).symm.trans
        (eq_assemblePacket_of_exec_encodeCommand run' results')
    obtain ⟨enabled, buttonA, buttonB⟩ := eq_of_flagByte_eq (congrArg Packet.byte1 same)
    exact ⟨enabled, buttonA, buttonB, eq_of_speedByte_eq hv hv' (congrArg Packet.byte0 same)⟩

/-- Settles O8: the transaction drives CS's ports and records the assembled packet, which the ports go on
showing. -/
theorem encodeCommandReturnsSpeedAndFlagBytes :
    Obligations.EncodeCommandReturnsSpeedAndFlagBytes := by
  intro e a b v s
  refine ⟨_, exec_eq_runTransaction _ s, ?_, csByte0_runTransaction_encodeCommand e a b v s, ?_,
    State.csLen_eq _⟩
  · rw [runTransaction_encodeCommand, assemblePacket_eq]
    rfl
  · rw [csByte1_runTransaction_encodeCommand, flagByte_eq]

/-- Settles O9: each step of the fold doubles the accumulator and adds the flag. -/
theorem flagFoldRunsEnabledThenButtonBThenButtonA :
    Obligations.FlagFoldRunsEnabledThenButtonBThenButtonA := by
  intro e a b v s
  have bound : flagFold [e, b, a] ≤ 7 := by
    rw [← flagByte_toNat_eq_flagFold]
    exact Nat.le_of_lt_succ (flagByte_toNat_lt_eight e a b)
  exact ⟨rfl, flagFold_singleton e, flagFold_pair e b, flagFold_three e b a, bound, _, _,
    exec_eq_runTransaction _ s, runTransaction_encodeCommand_results e a b v s,
    flagByte_toNat_eq_flagFold e a b⟩

/-- Settles O10: byte 0 is assembled from the speed alone and byte 1 from the flags alone. -/
theorem speedByteIsSpeedAndIndependentOfFlags :
    Obligations.SpeedByteIsSpeedAndIndependentOfFlags := by
  intro e a b v s
  refine ⟨_, assemblePacket e a b v, exec_eq_runTransaction _ s,
    runTransaction_encodeCommand_results e a b v s, speedByte_toNat v, speedByte_toNat_of_le,
    fun v' => ?_, fun e' a' b' => ?_⟩
  · exact ⟨_, assemblePacket e a b v', exec_eq_runTransaction _ s,
      runTransaction_encodeCommand_results e a b v' s,
      (assemblePacket_byte1 e a b v').trans (assemblePacket_byte1 e a b v).symm⟩
  · exact ⟨_, assemblePacket e' a' b' v, exec_eq_runTransaction _ s,
      runTransaction_encodeCommand_results e' a' b' v s,
      (assemblePacket_byte0 e' a' b' v).trans (assemblePacket_byte0 e a b v).symm⟩

/-- Settles O11: every operation has a next state, and the packet recorded is the one CS's ports show. -/
theorem encodeCommandNeverFailsAndReturnsTwoBytes :
    Obligations.EncodeCommandNeverFailsAndReturnsTwoBytes := by
  intro e a b v s
  refine ⟨_, assemblePacket e a b v, exec_eq_runTransaction _ s,
    runTransaction_encodeCommand_results e a b v s, packet_bytes_length _, ?_, State.csLen_eq _⟩
  rw [csByte0_runTransaction_encodeCommand, csByte1_runTransaction_encodeCommand, Packet.bytes,
    assemblePacket_byte0, assemblePacket_byte1]

end Sys2Proof
end

section
/-! The result of `decodeCount` by its length, the two bytes of a count, and O16 to O20 from both. -/

namespace Sys2Proof.Machine

theorem runTransaction_results_eq_iff (i : Instr) (s : State) (r : Result) :
    (runTransaction i s).results = s.results ++ [r] ↔ transaction i = r := by
  rw [runTransaction_results, List.append_cancel_left_eq, List.singleton_inj]

section countBytes

/-- 42_count_deserializer.md R76: the low byte has bits 7:0 of the count, the high byte bits 15:8. -/
theorem assembleCount_getLsbD_fifteen (lo hi : Byte) :
    (assembleCount lo hi).getLsbD 15 = hi.getLsbD 7 := by
  simp [assembleCount]

theorem toNat_add_256_mul_toNat_le (lo hi : Byte) : lo.toNat + 256 * hi.toNat ≤ 65535 := by
  have low := lo.isLt
  have high := hi.isLt
  omega

/-- 42_count_deserializer.md R77: each count comes from one pair of bytes. -/
theorem assembleCount_eq_iff (lo hi : Byte) (c : Count) :
    assembleCount lo hi = c ↔
      lo = BitVec.ofNat 8 (c.toNat % 256) ∧ hi = BitVec.ofNat 8 (c.toNat / 256) := by
  have low := lo.isLt
  have high := hi.isLt
  have count := c.isLt
  simp only [← BitVec.toNat_inj, assembleCount_toNat, BitVec.toNat_ofNat]
  omega

/-- 42_count_deserializer.md R77: the harness's bytes of a count read as the count. -/
theorem memRead_encodeCountLE {count : Nat} (bound : count ≤ 65535) :
    memRead (encodeCountLE count) 0 2 = count := by
  have bytes : memRead (encodeCountLE count) 0 2 = count % 256 % 256 + 256 * (count / 256 % 256) := by
    simp [memRead, encodeCountLE, littleEndian, Nat.shiftRight_eq_div_pow]
  omega

theorem countOfBytes_encodeCountLE {count : Nat} (bound : count ≤ 65535) :
    countOfBytes (encodeCountLE count) = .count (BitVec.ofNat 16 count) := by
  have long : ¬ (encodeCountLE count).length < Config.cntMinLen := Nat.lt_irrefl 2
  rw [countOfBytes, if_neg long, memRead_encodeCountLE bound]

end countBytes

section decodeCount

variable {pl : Payload} (s : State)

theorem transaction_decodeCount_of_two_le (long : 2 ≤ pl.len) :
    transaction (.decodeCount pl) = .count (assembleCount pl.lane0 pl.lane1) := by
  rw [transaction_decodeCount, if_neg (Nat.not_lt.2 long)]

theorem transaction_decodeCount_of_lt_two (short : pl.len < 2) :
    transaction (.decodeCount pl) = .error .malformedPacket := by
  rw [transaction_decodeCount, if_pos short]

theorem transaction_decodeCount_eq_error_iff :
    transaction (.decodeCount pl) = .error .malformedPacket ↔ pl.len < 2 := by
  refine ⟨fun error => ?_, transaction_decodeCount_of_lt_two⟩
  by_contra long
  rw [transaction_decodeCount_of_two_le (Nat.not_lt.1 long)] at error
  cases error

theorem runTransaction_decodeCount_results_of_two_le (long : 2 ≤ pl.len) :
    (runTransaction (.decodeCount pl) s).results =
      s.results ++ [.count (assembleCount pl.lane0 pl.lane1)] := by
  rw [runTransaction_results, transaction_decodeCount_of_two_le long]

theorem cdErr_runTransaction_decodeCount :
    (runTransaction (.decodeCount pl) s).cdErr = decide (pl.len < 2) := rfl

/-- The ports of CD go on showing the count after the transaction. -/
theorem cdCount_runTransaction_decodeCount_of_two_le (long : 2 ≤ pl.len) :
    (runTransaction (.decodeCount pl) s).cdCount = assembleCount pl.lane0 pl.lane1 :=
  State.cdCount_of_not_err _ (decide_eq_false (Nat.not_lt.2 long))

end decodeCount

end Sys2Proof.Machine

namespace Sys2Proof

open Sys2Proof.Machine

/-- Settles O17: the result and `cd_err` each test the length against 2, and nothing else. -/
theorem malformedPacketExactlyBelowTwoBytes : Obligations.MalformedPacketExactlyBelowTwoBytes := by
  intro payload s
  have short : payload.len < 2 ↔ payload.len = 0 ∨ payload.len = 1 := by omega
  refine ⟨_, exec_eq_runTransaction _ s, ?_, ?_,
    fun long => ⟨_, runTransaction_decodeCount_results_of_two_le s long⟩⟩
  · rw [runTransaction_results_eq_iff, transaction_decodeCount_eq_error_iff, short]
  · rw [cdErr_runTransaction_decodeCount, decide_eq_true_iff, short]

/-- Settles O18: a long payload's outputs are made of lanes 0 and 1 alone, a short one's of nothing. -/
theorem extraBytesAndUnusedLanesHaveNoEffect :
    Obligations.ExtraBytesAndUnusedLanesHaveNoEffect := by
  intro p q s
  constructor
  · intro longP longQ lane0 lane1
    refine ⟨.count (assembleCount p.lane0 p.lane1), _, _, exec_eq_runTransaction _ s,
      exec_eq_runTransaction _ s, runTransaction_decodeCount_results_of_two_le s longP, ?_, ?_, ?_⟩
    · rw [runTransaction_decodeCount_results_of_two_le s longQ, lane0, lane1]
    · rw [cdErr_runTransaction_decodeCount, cdErr_runTransaction_decodeCount,
        decide_eq_false (Nat.not_lt.2 longP), decide_eq_false (Nat.not_lt.2 longQ)]
    · rw [cdCount_runTransaction_decodeCount_of_two_le s longP,
        cdCount_runTransaction_decodeCount_of_two_le s longQ, lane0, lane1]
  · intro shortP shortQ
    refine ⟨.error .malformedPacket, _, _, exec_eq_runTransaction _ s, exec_eq_runTransaction _ s,
      (runTransaction_results_eq_iff _ s _).2 (transaction_decodeCount_of_lt_two shortP),
      (runTransaction_results_eq_iff _ s _).2 (transaction_decodeCount_of_lt_two shortQ), ?_⟩
    rw [cdErr_runTransaction_decodeCount, cdErr_runTransaction_decodeCount,
      decide_eq_true shortP, decide_eq_true shortQ]

/-- Settles O19: the assembled count has the value of its two bytes, which 16 bits hold. -/
theorem countIsUnsignedAndNeverOverflows : Obligations.CountIsUnsignedAndNeverOverflows := by
  intro payload s long
  refine ⟨toNat_add_256_mul_toNat_le _ _, _, _, exec_eq_runTransaction _ s,
    runTransaction_decodeCount_results_of_two_le s long, assembleCount_toNat _ _,
    assembleCount_getLsbD_fifteen _ _, fun lane0 lane1 => ?_⟩
  rw [assembleCount_toNat, lane0, lane1]
  rfl

/-- Settles O20: the bytes of a count read as the count, and no other two lanes assemble to it. -/
theorem countRoundTripIsBijective : Obligations.CountRoundTripIsBijective := by
  constructor
  · intro count payload s bound bytes
    refine ⟨_, BitVec.ofNat 16 count, exec_eq_runTransaction _ s,
      (runTransaction_results_eq_iff _ s _).2 ?_, ?_⟩
    · rw [transaction, bytes, countOfBytes_encodeCountLE bound]
    · rw [BitVec.toNat_ofNat, Nat.mod_eq_of_lt (Nat.lt_succ_of_le bound)]
  · intro c
    refine ⟨BitVec.ofNat 8 (c.toNat % 256), BitVec.ofNat 8 (c.toNat / 256),
      fun payload s long => ⟨_, exec_eq_runTransaction _ s, ?_⟩⟩
    rw [runTransaction_results_eq_iff, transaction_decodeCount_of_two_le long, Result.count.injEq,
      assembleCount_eq_iff]

/-- Settles O16: the transaction drives CD's ports and records the result its length selects. -/
theorem decodeCountReturnsLittleEndianCountOrMalformed :
    Obligations.DecodeCountReturnsLittleEndianCountOrMalformed := by
  intro payload s
  constructor
  · intro long
    rw [exec_eq_runTransaction, runTransaction, transaction_decodeCount_of_two_le long,
      assembleCount_eq_ofNat]
    rfl
  · intro short
    rw [exec_eq_runTransaction, runTransaction, transaction_decodeCount_of_lt_two short]
    rfl

end Sys2Proof
end

section
/-! The one error and the one operation that raises it, and O22 from both. -/

namespace Sys2Proof.Machine

/-- 60_exceptions.md R83: no other error exists. -/
theorem eq_malformedPacket (e : BlockError) : e = .malformedPacket := by
  cases e
  rfl

/-- 60_exceptions.md R79: the error's only cause. -/
theorem transaction_eq_error_iff (i : Instr) (e : BlockError) :
    transaction i = .error e ↔ ∃ payload, i = .decodeCount payload ∧ payload.len < 2 := by
  rw [eq_malformedPacket e]
  constructor
  · intro error
    cases i with
    | buildAddress | encodeCommand => cases error
    | decodeCount payload => exact ⟨payload, rfl, transaction_decodeCount_eq_error_iff.1 error⟩
  · rintro ⟨payload, rfl, short⟩
    exact transaction_decodeCount_of_lt_two short

end Sys2Proof.Machine

namespace Sys2Proof

open Sys2Proof.Machine

/-- Settles O22: every operation hands over its transaction's result, and only that of a short payload
is an error. -/
theorem onlyErrorIsMalformedPacketFromShortPayload :
    Obligations.OnlyErrorIsMalformedPacketFromShortPayload := by
  refine ⟨eq_malformedPacket, fun i s =>
    ⟨_, transaction i, exec_eq_runTransaction i s, runTransaction_results i s, ?_, fun short => ?_⟩⟩
  · rintro ⟨e, error⟩
    exact (transaction_eq_error_iff i e).1 error
  · exact ⟨.malformedPacket, (transaction_eq_error_iff i _).2 short⟩

end Sys2Proof
end

section
/-! Which operands the ports carry, the decoder against the encoder, and O34 and O35 from both. -/

namespace Sys2Proof

section wellFormed

variable (p : Params)

theorem wellFormed_buildAddress_iff (c i : Nat) :
    (Instr.buildAddress c i).wellFormed p = true ↔ c < 2 ^ p.cw ∧ i < 2 ^ p.iw := by
  rw [Instr.wellFormed, Bool.and_eq_true, decide_eq_true_iff, decide_eq_true_iff]

theorem wellFormed_encodeCommand_iff (e a b : Bool) (v : Nat) :
    (Instr.encodeCommand e a b v).wellFormed p = true ↔ v < 2 ^ p.sw := by
  rw [Instr.wellFormed, decide_eq_true_iff]

theorem wellFormed_decodeCount_iff (pl : Payload) :
    (Instr.decodeCount pl).wellFormed p = true ↔
      pl.len < 2 ^ p.lw ∧ pl.rest.length + 2 = p.pmax := by
  rw [Instr.wellFormed, Payload.wellFormed, Bool.and_eq_true, decide_eq_true_iff, decide_eq_true_iff]

end wellFormed

section levels

/-- 10_state.md R19: a flag's level fits its 1-bit port. -/
theorem levelOfFlag_lt_two (f : Bool) : levelOfFlag f < 2 := by cases f <;> decide

theorem levelOfFlag_beq_one (f : Bool) : (levelOfFlag f == 1) = f := by cases f <;> rfl

theorem levelOfFlag_of_beq_one {v : Nat} (bit : v < 2) : levelOfFlag (v == 1) = v := by
  interval_cases v <;> rfl

theorem toNat_ofNat_of_lt_256 {v : Nat} (byte : v < 256) : (BitVec.ofNat 8 v).toNat = v := by
  rw [BitVec.toNat_ofNat, Nat.mod_eq_of_lt byte]

theorem ofNat_toNat_byte (b : Byte) : BitVec.ofNat 8 b.toNat = b := by
  rw [BitVec.ofNat_toNat, BitVec.setWidth_eq]

theorem map_ofNat_map_toNat (bytes : List Byte) :
    (bytes.map BitVec.toNat).map (BitVec.ofNat 8) = bytes := by
  rw [List.map_map]
  exact List.map_id'' ofNat_toNat_byte bytes

theorem map_toNat_map_ofNat {levels : List Nat} (bytes : ∀ v ∈ levels, v < 256) :
    (levels.map (BitVec.ofNat 8)).map BitVec.toNat = levels := by
  rw [List.map_map]
  exact (List.map_congr_left fun v mem => toNat_ofNat_of_lt_256 (bytes v mem)).trans (List.map_id levels)

/-- 10_state.md R20: a byte's level fits its 8-bit lane. -/
theorem all_lt_256_map_toNat (bytes : List Byte) :
    (bytes.map BitVec.toNat).all (fun v => decide (v < 256)) = true := by
  simp only [List.all_map, List.all_eq_true, Function.comp_apply, decide_eq_true_iff]
  exact fun b _ => b.isLt

end levels

section decodePorts

variable {p : Params}

theorem decodeArPorts_of_lt {c i : Nat} (hc : c < 2 ^ p.cw) (hi : i < 2 ^ p.iw) :
    decodeArPorts p [c, i] = .ok (.buildAddress c i) := by
  rw [decodeArPorts, if_neg (Nat.not_le.2 hc), if_neg (Nat.not_le.2 hi)]

theorem decodeCsPorts_of_lt (e a b : Bool) {v : Nat} (hv : v < 2 ^ p.sw) :
    decodeCsPorts p [levelOfFlag e, levelOfFlag a, levelOfFlag b, v] =
      .ok (.encodeCommand e a b v) := by
  have bit (f : Bool) : ¬ 2 ≤ levelOfFlag f := Nat.not_le.2 (levelOfFlag_lt_two f)
  rw [decodeCsPorts, if_neg (bit e), if_neg (bit a), if_neg (bit b), if_neg (Nat.not_le.2 hv),
    levelOfFlag_beq_one, levelOfFlag_beq_one, levelOfFlag_beq_one]

theorem decodeCdPorts_of_lt {pl : Payload} (len : pl.len < 2 ^ p.lw)
    (lanes : pl.rest.length + 2 = p.pmax) :
    decodeCdPorts p (encode (.decodeCount pl)).levels = .ok (.decodeCount pl) := by
  have ports : ¬ (pl.rest.map BitVec.toNat).length + 2 ≠ p.pmax := by
    rw [List.length_map]
    exact not_not.2 lanes
  have bytes := all_lt_256_map_toNat (pl.lane0 :: pl.lane1 :: pl.rest)
  rw [List.map_cons, List.map_cons] at bytes
  rw [encode, decodeCdPorts, if_neg ports, if_neg (Nat.not_le.2 len), if_pos bytes, map_ofNat_map_toNat,
    ofNat_toNat_byte, ofNat_toNat_byte]

/-- Each width check of the decoder passed, and the answer puts the same levels on the ports of AR. -/
theorem decodeArPorts_ok {levels : List Nat} {i : Instr} (h : decodeArPorts p levels = .ok i) :
    i.wellFormed p = true ∧ encode i = { unit := .addressRouter, levels := levels } := by
  unfold decodeArPorts at h
  split at h
  next c x =>
    split_ifs at h with wideClass wideIndex
    cases h
    exact ⟨(wellFormed_buildAddress_iff p c x).2 ⟨Nat.not_le.1 wideClass, Nat.not_le.1 wideIndex⟩, rfl⟩
  next => cases h

theorem decodeCsPorts_ok {levels : List Nat} {i : Instr} (h : decodeCsPorts p levels = .ok i) :
    i.wellFormed p = true ∧ encode i = { unit := .commandSerializer, levels := levels } := by
  unfold decodeCsPorts at h
  split at h
  next e a b v =>
    split_ifs at h with wideE wideA wideB wideSpeed
    cases h
    refine ⟨(wellFormed_encodeCommand_iff p _ _ _ v).2 (Nat.not_le.1 wideSpeed), ?_⟩
    rw [encode, levelOfFlag_of_beq_one (Nat.not_le.1 wideE), levelOfFlag_of_beq_one (Nat.not_le.1 wideA),
      levelOfFlag_of_beq_one (Nat.not_le.1 wideB)]
  next => cases h

theorem decodeCdPorts_ok {levels : List Nat} {i : Instr} (h : decodeCdPorts p levels = .ok i) :
    i.wellFormed p = true ∧ encode i = { unit := .countDeserializer, levels := levels } := by
  unfold decodeCdPorts at h
  split at h
  next len lane0 lane1 rest =>
    split_ifs at h with lanes wideLen bytes
    cases h
    have byte : ∀ v ∈ lane0 :: lane1 :: rest, v < 256 := fun v mem =>
      of_decide_eq_true (List.all_eq_true.1 bytes v mem)
    constructor
    · rw [wellFormed_decodeCount_iff, List.length_map]
      exact ⟨Nat.not_le.1 wideLen, not_not.1 lanes⟩
    · have levels := map_toNat_map_ofNat byte
      exact congrArg (fun l => Presentation.mk .countDeserializer (len :: l)) levels
  next => cases h

end decodePorts

/-- The decoder answers exactly the well-formed operation whose presentation it is given. -/
theorem decode_eq_ok_iff (p : Params) (pr : Presentation) (i : Instr) :
    decode p pr = .ok i ↔ i.wellFormed p = true ∧ encode i = pr := by
  constructor
  · obtain ⟨unit, levels⟩ := pr
    cases unit with
    | addressRouter => exact decodeArPorts_ok
    | commandSerializer => exact decodeCsPorts_ok
    | countDeserializer => exact decodeCdPorts_ok
  · rintro ⟨fits, rfl⟩
    cases i with
    | buildAddress c x =>
      obtain ⟨hc, hx⟩ := (wellFormed_buildAddress_iff p c x).1 fits
      exact decodeArPorts_of_lt hc hx
    | encodeCommand e a b v =>
      exact decodeCsPorts_of_lt e a b ((wellFormed_encodeCommand_iff p e a b v).1 fits)
    | decodeCount pl =>
      obtain ⟨len, lanes⟩ := (wellFormed_decodeCount_iff p pl).1 fits
      exact decodeCdPorts_of_lt len lanes

/-- Settles O34: the encoder's levels fit the ports, so each check of the decoder passes, and flags and
bytes are read back from their levels. -/
theorem decodeOfEncodeIsIdentity : Obligations.DecodeOfEncodeIsIdentity :=
  fun p i fits => (decode_eq_ok_iff p (encode i) i).2 ⟨fits, rfl⟩

/-- Settles O35: the decoder checks every width before it answers, and flags and bytes give their levels
back. -/
theorem decodeAnswersWellFormedAndIsInjective : Obligations.DecodeAnswersWellFormedAndIsInjective :=
  fun p pr i => (decode_eq_ok_iff p pr i).1

end Sys2Proof
end

section
/-! What a transaction leaves unchanged, and O3, O15, O23, O24 and O25 from that and from the
transaction function. -/

namespace Sys2Proof.Machine

namespace State

variable {s : State} {i : Instr}

/-- 92_eei_decisions.md D1: each unit has ports of its own. -/
theorem drive_ar_of_ne (other : i.unit ≠ .addressRouter) : (s.drive i).ar = s.ar := by
  cases i with
  | buildAddress => exact absurd rfl other
  | encodeCommand | decodeCount => rfl

theorem drive_cs_of_ne (other : i.unit ≠ .commandSerializer) : (s.drive i).cs = s.cs := by
  cases i with
  | encodeCommand => exact absurd rfl other
  | buildAddress | decodeCount => rfl

theorem drive_cd_of_ne (other : i.unit ≠ .countDeserializer) : (s.drive i).cd = s.cd := by
  cases i with
  | decodeCount => exact absurd rfl other
  | buildAddress | encodeCommand => rfl

end State

section runTransaction

variable (i : Instr) (s : State)

@[simp] theorem runTransaction_config : (runTransaction i s).config = s.config := by
  rw [runTransaction, State.record_config, State.drive_config]

@[simp] theorem runTransaction_pending : (runTransaction i s).pending = s.pending := by
  rw [runTransaction, State.record_pending, State.drive_pending]

end runTransaction

/-- 93_implementation_defined.md U1: in contract there is nothing to truncate. -/
theorem speedByte_eq_of_keeps {trunc : Nat → Byte} (keeps : ∀ v, v ≤ 255 → (trunc v).toNat = v)
    {v : Nat} (inContract : v ≤ 255) : speedByte v = trunc v :=
  BitVec.eq_of_toNat_eq ((speedByte_toNat_of_le inContract).trans (keeps v inContract).symm)

end Sys2Proof.Machine

namespace Sys2Proof

open Sys2Proof.Machine

/-- Settles O24: every operation hands over its unit's outputs, which show the transaction function's result. -/
theorem machineRefinesTransactionFunction : Obligations.MachineRefinesTransactionFunction :=
  fun i s => ⟨_, exec_eq_runTransaction i s, runTransaction_results i s⟩

/-- Settles O3: the result is the transaction function's, which reads no state, and reset holds no result. -/
theorem firstTransactionGivesSameResultAsAnyOther :
    Obligations.FirstTransactionGivesSameResultAsAnyOther :=
  fun i s => ⟨transaction i, _, _, exec_eq_runTransaction i _, runTransaction_results i State.reset,
    exec_eq_runTransaction i s, runTransaction_results i s⟩

/-- Settles O15: a truncation that keeps 0 to 255 agrees with the model's on the speeds of the contract. -/
theorem inContractPacketIndependentOfTruncation :
    Obligations.InContractPacketIndependentOfTruncation := by
  intro trunc keeps e a b v s inContract
  refine ⟨_, exec_eq_runTransaction _ s, ?_⟩
  rw [runTransaction_encodeCommand_results, ← speedByte_eq_of_keeps keeps inContract]
  rfl

/-- Settles O23: a failed `decodeCount` leaves its error in the list of results and nothing that the next
transaction reads. -/
theorem errorIsNotSticky : Obligations.ErrorIsNotSticky := by
  intro short i s isShort
  refine ⟨_, _, _, transaction i, exec_eq_runTransaction _ s, exec_eq_runTransaction i _,
    exec_eq_runTransaction i s, ?_, runTransaction_results i s, ?_⟩
  · rw [runTransaction_runTransaction_results, transaction_decodeCount_of_lt_two isShort]
  · rintro long rfl isLong
    exact ⟨decide_eq_false (Nat.not_lt.2 isLong), _, transaction_decodeCount_of_two_le isLong⟩

/-- Settles O25: driving a unit's ports moves no other unit's, and recording the result moves no port. -/
theorem transactionTouchesItsOwnUnitOnly : Obligations.TransactionTouchesItsOwnUnitOnly := by
  intro i s
  refine ⟨_, exec_eq_runTransaction i s, runTransaction_config i s, runTransaction_pending i s,
    State.drive_ar_of_ne, State.drive_cs_of_ne, State.drive_cd_of_ne,
    output_runTransaction_of_ne i s, ?_⟩
  rw [runTransaction_results, output_runTransaction_unit]

end Sys2Proof
end

section
/-! What a step does on each kind of pending entry, what its outcome says of the entry, a run of steps, and
O27 to O30, O32 and O33 from these. -/

namespace Sys2Proof.Machine

section step

variable {s : State} {pr : Presentation} {rest : List Presentation}

theorem step_of_pending_nil (empty : s.pending = []) : step s = .next s.idle := by
  rw [step, State.fetch, empty]

theorem step_of_decode_ok {i : Instr} (first : s.pending = pr :: rest)
    (ok : decode s.config pr = .ok i) : step s = exec i { s with pending := rest } := by
  rw [step, State.fetch, first]
  simp only [ok]

theorem step_of_decode_error {e : DecodeError} (first : s.pending = pr :: rest)
    (error : decode s.config pr = .error e) : step s = .refused (.notPresentable e) := by
  rw [step, State.fetch, first]
  simp only [error]

/-- A step on the presentation of a well-formed operation completes its transaction. -/
theorem step_of_encode {i : Instr} (first : s.pending = encode i :: rest)
    (fits : i.wellFormed s.config = true) :
    step s = .next (runTransaction i { s with pending := rest }) := by
  rw [step_of_decode_ok first ((decode_eq_ok_iff _ _ i).2 ⟨fits, rfl⟩), exec_eq_runTransaction]

/-- `step_next_cases` with the decoder's answer and the operation's next state written out. -/
theorem next_cases_of_step {t : State} (run : step s = .next t) :
    (s.pending = [] ∧ t = s.idle) ∨
    ∃ i rest, s.pending = encode i :: rest ∧ i.wellFormed s.config = true ∧
      t = runTransaction i { s with pending := rest } := by
  rcases step_next_cases run with idle | ⟨pr, rest, i, first, decoded, done⟩
  · exact .inl idle
  · obtain ⟨fits, rfl⟩ := (decode_eq_ok_iff s.config pr i).1 decoded
    rw [exec_eq_runTransaction] at done
    exact .inr ⟨i, rest, first, fits, (Host.Outcome.next.inj done).symm⟩

theorem step_ne_fault (s : State) (f : Fault) : step s ≠ .fault f := nomatch f

theorem step_eq_refused_iff (s : State) (why : Refusal) :
    step s = .refused why ↔
      ∃ pr rest e, s.pending = pr :: rest ∧ decode s.config pr = .error e ∧
        why = .notPresentable e := by
  constructor
  · intro run
    cases first : s.pending with
    | nil => cases run.symm.trans (step_of_pending_nil first)
    | cons pr rest =>
      cases decoded : decode s.config pr with
      | ok i =>
        rw [step_of_decode_ok first decoded, exec_eq_runTransaction] at run
        cases run
      | error e =>
        exact ⟨pr, rest, e, rfl, decoded,
          Host.Outcome.refused.inj (run.symm.trans (step_of_decode_error first decoded))⟩
  · rintro ⟨pr, rest, e, first, error, rfl⟩
    exact step_of_decode_error first error

theorem exists_step_eq_next_iff (s : State) :
    (∃ t, step s = .next t) ↔
      ∀ pr rest, s.pending = pr :: rest →
        ∃ i : Instr, i.wellFormed s.config = true ∧ encode i = pr := by
  constructor
  · rintro ⟨t, run⟩ pr rest first
    rcases next_cases_of_step run with ⟨empty, -⟩ | ⟨i, rest', first', fits, -⟩
    · cases first.symm.trans empty
    · exact ⟨i, fits, (List.cons.inj (first'.symm.trans first)).1⟩
  · intro presentable
    cases first : s.pending with
    | nil => exact ⟨_, step_of_pending_nil first⟩
    | cons pr rest =>
      obtain ⟨i, fits, rfl⟩ := presentable pr rest first
      exact ⟨_, step_of_encode first fits⟩

/-- A run of one step more goes on from the state that its first step gives. -/
theorem run_succ_of_step {t : State} (run : step s = .next t) (k : Nat) :
    Host.Core.run core (k + 1) s = Host.Core.run core k t := by
  have coreStep : core.step s = .next t := run
  simp only [Host.Core.run, coreStep]

end step

end Sys2Proof.Machine

namespace Sys2Proof

open Sys2Proof.Machine

/-- Settles O29: the decoder answers exactly the presentations of well-formed operations, and no operation
stops. -/
theorem stepStopsOnlyOnUnpresentableLevels : Obligations.StepStopsOnlyOnUnpresentableLevels :=
  fun s => ⟨step_ne_fault s, step_eq_refused_iff s, exists_step_eq_next_iff s⟩

/-- Settles O30: the decoder reads the parameters and the first entry, and the transaction function the
decoded operation. -/
theorem stepResultIndependentOfPast : Obligations.StepResultIndependentOfPast := by
  intro s s' t config pending run
  rcases next_cases_of_step run with ⟨empty, rfl⟩ | ⟨i, rest, first, fits, rfl⟩
  · exact ⟨s'.idle, [], step_of_pending_nil (pending.symm.trans empty), (List.append_nil _).symm,
      (List.append_nil _).symm, pending.symm, config.symm⟩
  · rw [config] at fits
    refine ⟨_, [transaction i], step_of_encode (pending.symm.trans first) fits,
      runTransaction_results i _, runTransaction_results i _, ?_, ?_⟩
    · rw [runTransaction_pending, runTransaction_pending]
    · rw [runTransaction_config, runTransaction_config]
      exact config.symm

/-- Settles O32, by induction on the list: each step completes the first transaction and leaves a state
that holds the presentations of the others. -/
theorem transactionListGivesListOfResults : Obligations.TransactionListGivesListOfResults := by
  intro is later
  induction is with
  | nil => exact fun s _ pending => ⟨s, rfl, (List.append_nil _).symm, pending, rfl⟩
  | cons i is ih =>
    intro s fits pending
    obtain ⟨fitsFirst, fitsRest⟩ := List.forall_mem_cons.1 fits
    obtain ⟨t, run, results, left, config⟩ :=
      ih (runTransaction i { s with pending := is.map encode ++ later })
        (by rw [runTransaction_config]; exact fitsRest) (runTransaction_pending i _)
    refine ⟨t, (run_succ_of_step (step_of_encode pending fitsFirst) is.length).trans run, ?_, left,
      config.trans (runTransaction_config i _)⟩
    rw [results, runTransaction_results, List.append_assoc, List.singleton_append, List.map_cons]

/-- Settles O33: the presentation put in front decodes to the operation it encodes. -/
theorem fetchedTableWordRunsNext : Obligations.FetchedTableWordRunsNext := by
  intro s nbits w i word fits
  have fetched : s.withFetchWord nbits w = s.present (encode i) := by
    rw [State.withFetchWord, word]
  rw [fetched]
  exact step_of_decode_ok (State.present_pending s _) ((decode_eq_ok_iff _ _ i).2 ⟨fits, rfl⟩)

/-- Settles O27: a decoded operation is run on the state without its presentation. -/
theorem stepRunsDecodedOperation : Obligations.StepRunsDecodedOperation :=
  fun _ _ _ _ => step_of_decode_ok

/-- Settles O28: the idle state has the next value of the free counter. -/
theorem stepWithoutTransactionChangesNothing : Obligations.StepWithoutTransactionChangesNothing :=
  fun _ => step_of_pending_nil

end Sys2Proof
end

section
/-! The invariant across a transaction, and O1, O2 and O31: reset and every step. -/

namespace Sys2Proof.Machine

section invariant

variable {i : Instr} {s : State}

/-- 10_state.md R18, 30_encoding.md R54: operands the ports carry give a result the ports carry. -/
theorem transaction_fits {p : Params} (fits : i.wellFormed p = true) : (transaction i).Fits p := by
  cases i with
  | buildAddress c x =>
    obtain ⟨hc, hx⟩ := (wellFormed_buildAddress_iff p c x).1 fits
    rw [transaction_buildAddress]
    exact assembleIdentifier_lt p c x hc hx
  | encodeCommand e a b v =>
    rw [transaction_encodeCommand]
    exact flagByte_toNat_lt_eight e a b
  | decodeCount pl =>
    rw [transaction_decodeCount]
    split <;> trivial

theorem State.portsFit_drive (ports : s.PortsFit) (fits : i.wellFormed s.config = true) :
    (s.drive i).PortsFit := by
  obtain ⟨deviceClass, subIndex, speed, len, lanes⟩ := ports
  cases i with
  | buildAddress c x =>
    obtain ⟨hc, hx⟩ := (wellFormed_buildAddress_iff s.config c x).1 fits
    exact ⟨hc, hx, speed, len, lanes⟩
  | encodeCommand e a b v =>
    exact ⟨deviceClass, subIndex, (wellFormed_encodeCommand_iff s.config e a b v).1 fits, len, lanes⟩
  | decodeCount pl =>
    exact ⟨deviceClass, subIndex, speed, (wellFormed_decodeCount_iff s.config pl).1 fits⟩

/-- A transaction whose operands the ports carry keeps the invariant. -/
theorem runTransaction_inv (inv : s.Inv) (fits : i.wellFormed s.config = true) :
    (runTransaction i s).Inv where
  legal := by
    rw [runTransaction_config]
    exact inv.legal
  ports := State.portsFit_drive inv.ports fits
  results := by
    rw [runTransaction_results, runTransaction_config, List.forall_mem_append, List.forall_mem_singleton]
    exact ⟨inv.results, transaction_fits fits⟩

theorem State.idle_inv (inv : s.Inv) : s.idle.Inv := ⟨inv.legal, inv.ports, inv.results⟩

/-- The invariant says nothing of the caller's transactions to come. -/
theorem State.inv_with_pending (inv : s.Inv) (rest : List Presentation) :
    ({ s with pending := rest } : State).Inv := ⟨inv.legal, inv.ports, inv.results⟩

end invariant

end Sys2Proof.Machine

namespace Sys2Proof

open Sys2Proof.Machine

/-- Settles O31: the decoder lets through only operands the ports carry, and their transactions keep the
invariant. -/
theorem stepKeepsInvariant : Obligations.StepKeepsInvariant := by
  intro s t inv run
  rcases next_cases_of_step run with ⟨-, rfl⟩ | ⟨i, rest, -, fits, rfl⟩
  · exact State.idle_inv inv
  · exact runTransaction_inv (State.inv_with_pending inv rest) fits

/-- Settles O1, by evaluating reset. -/
theorem resetTakesSpecParametersAndHoldsNothing :
    Obligations.ResetTakesSpecParametersAndHoldsNothing :=
  ⟨rfl, by decide, by decide, rfl, rfl⟩

/-- Settles O2: the parameters are legal, the zero levels fit, and there is no result. -/
theorem resetMeetsInvariant : Obligations.ResetMeetsInvariant :=
  ⟨by decide, by decide, fun _ none => nomatch none⟩

end Sys2Proof
end

section
/-! The table word of each format in its operands, reading it back, and O36 to O38 from these. -/

namespace Sys2Proof

open Sys2Proof.Machine

section buildAddress

variable {c i : Nat}

/-- 30_encoding.md R46: the picture `cccccccciiii` is the identifier. -/
theorem encodeWord_buildAddress (inContract : i ≤ 15) :
    encodeWord (.buildAddress c i) = assembleIdentifier c i :=
  (assembleIdentifier_of_le_fifteen c i inContract).symm

theorem decodeWord_encodeWord_buildAddress {p : Params}
    (fits : (Instr.buildAddress c i).wellFormed p = true) (inContract : i ≤ 15) :
    decodeWord p .addressRouter (encodeWord (.buildAddress c i)) = some (.buildAddress c i) := by
  obtain ⟨hc, hi⟩ := (wellFormed_buildAddress_iff p c i).1 fits
  rw [encodeWord_buildAddress inContract, decodeWord, if_pos (assembleIdentifier_lt p c i hc hi),
    assembleIdentifier_shiftRight, shiftRight_four_eq_zero_of_le_fifteen inContract, Nat.or_zero,
    assembleIdentifier_mod, Nat.mod_eq_of_lt (Nat.lt_succ_of_le inContract)]

end buildAddress

section encodeCommand

variable (e a b : Bool) {v : Nat}

/-- 30_encoding.md R47: the second byte of the picture `ssssssss00000eba` is the flag byte. -/
theorem encodeWord_encodeCommand (v : Nat) :
    encodeWord (.encodeCommand e a b v) = 256 * v + (flagByte e a b).toNat := by
  have levels (f : Bool) : levelOfFlag f = b2i f := rfl
  rw [flagByte_toNat, encodeWord, levels, levels, levels]
  omega

theorem encodeWord_encodeCommand_testBit (v : Nat) {j : Nat} (low : j < 8) :
    (encodeWord (.encodeCommand e a b v)).testBit j = (flagByte e a b).getLsbD j := by
  rw [encodeWord_encodeCommand]
  exact (Nat.testBit_two_pow_mul_add v (flagByte e a b).isLt j).trans (if_pos low)

/-- 30_encoding.md R47: in contract the picture has two bytes, and the reserved bits are 0. -/
theorem encodeWord_encodeCommand_admitted (inContract : v ≤ 255) :
    encodeWord (.encodeCommand e a b v) < 65536 ∧
    encodeWord (.encodeCommand e a b v) / 8 % 32 = 0 ∧
    encodeWord (.encodeCommand e a b v) / 256 = v := by
  have flags := flagByte_toNat_lt_eight e a b
  rw [encodeWord_encodeCommand]
  omega

theorem decodeWord_encodeWord_encodeCommand (p : Params) (inContract : v ≤ 255) :
    decodeWord p .commandSerializer (encodeWord (.encodeCommand e a b v)) =
      some (.encodeCommand e a b v) := by
  obtain ⟨twoBytes, reserved, speed⟩ := encodeWord_encodeCommand_admitted e a b inContract
  rw [decodeWord, if_pos ⟨twoBytes, reserved⟩, speed,
    encodeWord_encodeCommand_testBit e a b v (by decide), flagByte_getLsbD_two,
    encodeWord_encodeCommand_testBit e a b v (by decide), flagByte_getLsbD_zero,
    encodeWord_encodeCommand_testBit e a b v (by decide), flagByte_getLsbD_one]

end encodeCommand

section decodeCount

variable (pl : Payload)

/-- The payload that a CNT word stands for: two bytes, and the other lanes 0 (log entry 10). -/
def twoBytePayload (p : Params) (pl : Payload) : Payload :=
  { pl with len := 2, rest := List.replicate (p.pmax - 2) 0 }

/-- 30_encoding.md R48: the two bytes of the picture `llllllllhhhhhhhh` are lanes 0 and 1. -/
theorem encodeWord_decodeCount_bytes :
    encodeWord (.decodeCount pl) / 256 = pl.lane0.toNat ∧
    encodeWord (.decodeCount pl) % 256 = pl.lane1.toNat := by
  have low := pl.lane1.isLt
  rw [encodeWord]
  omega

theorem encodeWord_decodeCount_lt : encodeWord (.decodeCount pl) < 65536 := by
  have first := pl.lane0.isLt
  have second := pl.lane1.isLt
  rw [encodeWord]
  omega

theorem decodeWord_encodeWord_decodeCount (p : Params) :
    decodeWord p .countDeserializer (encodeWord (.decodeCount pl)) =
      some (.decodeCount (twoBytePayload p pl)) := by
  obtain ⟨first, second⟩ := encodeWord_decodeCount_bytes pl
  have lane1 : BitVec.ofNat 8 (encodeWord (.decodeCount pl)) = pl.lane1 := by
    apply BitVec.eq_of_toNat_eq
    rw [BitVec.toNat_ofNat]
    exact second
  rw [decodeWord, if_pos (encodeWord_decodeCount_lt pl), first, lane1, ofNat_toNat_byte, twoBytePayload]

/-- Lanes 0 and 1 alone make the count (42_count_deserializer.md R75). -/
theorem transaction_twoBytePayload {pl : Payload} (p : Params) (long : 2 ≤ pl.len) :
    transaction (.decodeCount (twoBytePayload p pl)) = transaction (.decodeCount pl) := by
  rw [transaction_decodeCount_of_two_le (pl := twoBytePayload p pl) (le_refl 2),
    transaction_decodeCount_of_two_le long, twoBytePayload]

end decodeCount

/-- Settles O36: each field of the picture is read back from its own bits. -/
theorem tableWordReadsBackOperands : Obligations.TableWordReadsBackOperands := by
  intro p i fits inContract
  cases i with
  | buildAddress c x =>
    have contract : x ≤ 15 := of_decide_eq_true inContract
    exact ⟨_, decodeWord_encodeWord_buildAddress fits contract, rfl, fun _ => rfl, nofun⟩
  | encodeCommand e a b v =>
    have contract : v ≤ 255 := of_decide_eq_true inContract
    exact ⟨_, decodeWord_encodeWord_encodeCommand e a b p contract, rfl, fun _ => rfl, nofun⟩
  | decodeCount pl =>
    have contract : 2 ≤ pl.len := of_decide_eq_true inContract
    refine ⟨_, decodeWord_encodeWord_decodeCount pl p, transaction_twoBytePayload p contract,
      fun other => absurd rfl other, ?_⟩
    rintro _ ⟨⟩
    rfl

/-- Settles O37: the result is assembled from the fields that the picture shows. -/
theorem tableWordIsWhatTheOperationProduces : Obligations.TableWordIsWhatTheOperationProduces := by
  intro i s inContract
  cases i with
  | buildAddress c x =>
    have contract : x ≤ 15 := of_decide_eq_true inContract
    exact ⟨_, _, exec_eq_runTransaction _ s, runTransaction_buildAddress_results c x s, rfl,
      (encodeWord_buildAddress contract).symm⟩
  | encodeCommand e a b v =>
    have contract : v ≤ 255 := of_decide_eq_true inContract
    refine ⟨_, _, exec_eq_runTransaction _ s, runTransaction_encodeCommand_results e a b v s, rfl, ?_⟩
    rw [assemblePacket_byte0, assemblePacket_byte1, speedByte_toNat_of_le contract,
      encodeWord_encodeCommand, Nat.mul_comm]
  | decodeCount pl =>
    have contract : 2 ≤ pl.len := of_decide_eq_true inContract
    obtain ⟨first, second⟩ := encodeWord_decodeCount_bytes pl
    have low := pl.lane0.isLt
    refine ⟨_, _, exec_eq_runTransaction _ s, runTransaction_decodeCount_results_of_two_le s contract,
      rfl, ?_⟩
    rw [assembleCount_toNat, first, second]
    omega

/-- Settles O38, by evaluating the decoder on each word. -/
theorem writtenOutWordsDecode : Obligations.WrittenOutWordsDecode := by
  unfold Obligations.WrittenOutWordsDecode
  decide

end Sys2Proof
end
